-- ==== Sys2Proof/Word.lean ====
section
/-! DEFINITION. The bit-vector types the spec's values are made of (spec/00_scope.md R7, R8). -/

namespace Sys2Proof

/-- A byte: 8 bits, bit 0 the least significant (R7). -/
abbrev Byte := BitVec 8

/-- A 32-bit word: an operand register, a command word, a packed pixel (R7, R21, R91, R108). -/
abbrev Word := BitVec 32

/-- A window position 0..4095; its addition wraps modulo 4096 (R8, R76). -/
abbrev Pos := BitVec 12

end Sys2Proof
end

