-- ==== Sys2Proof/Config.lean ====
section
/-! DEFINITION. What an implementation fixes (spec/00_scope.md R6), and the free values: constants without a
body, so that nothing can be proved of the values the spec leaves unspecified. -/

namespace Sys2Proof

/-- The configuration record of R6. It is an argument of the machine: `Machine.State` carries one and no step
changes it (assumption log 2). -/
structure Config where
  /-- bytes in the input buffer -/
  ibufCap : Nat
  /-- bytes in the output buffer -/
  obufCap : Nat
  /-- bytes in the Golomb bit pool -/
  poolCap : Nat
  /-- 32-bit words in the pixel buffer -/
  pixCap : Nat
  /-- polarity of the Golomb sign bit; `true` is what the document states (R198, conflict C5) -/
  evenPositive : Bool
  deriving DecidableEq, Repr

/-- The constraints R6 puts on the capacities. -/
abbrev Config.Valid (c : Config) : Prop :=
  0 < c.ibufCap ∧ c.ibufCap < 2 ^ 32 ∧ 0 < c.obufCap ∧ c.obufCap < 2 ^ 32 ∧
  4 < c.poolCap ∧ c.poolCap < 2 ^ 32 ∧ 0 < c.pixCap ∧ c.pixCap ≤ 2 ^ 24

namespace Config

/-- DESIGN CHOICE (assumption log 1): the open capacity of `IBUF`, before it is brought into its range. -/
opaque openIbuf : Nat
/-- DESIGN CHOICE (assumption log 1): the open capacity of `OBUF`, before it is brought into its range. -/
opaque openObuf : Nat
/-- DESIGN CHOICE (assumption log 1): the open capacity of `POOL`, before it is brought into its range. -/
opaque openPool : Nat
/-- DESIGN CHOICE (assumption log 1): the open capacity of `PIX`, before it is brought into its range. -/
opaque openPix : Nat

/-- The configuration of the machine at reset: capacities that are any values R6 admits (the open numbers are
brought into R6's ranges, and every admitted value can be reached), and the polarity the document states
(assumption logs 1 and 3). -/
def built : Config where
  ibufCap := 1 + openIbuf % (2 ^ 32 - 1)
  obufCap := 1 + openObuf % (2 ^ 32 - 1)
  poolCap := 5 + openPool % (2 ^ 32 - 5)
  pixCap := 1 + openPix % 2 ^ 24
  evenPositive := true

end Config

/-- The four buffer spaces of R60. -/
inductive Space where
  /-- the input buffer (R61) -/
  | ibuf
  /-- the output buffer (R62) -/
  | obuf
  /-- the Golomb bit pool (R63) -/
  | pool
  /-- the pixel buffer (R64), as bytes: lane `k` of word `i` is byte `4i+k` -/
  | pix
  deriving DecidableEq, Repr

namespace Config

/-- Free value (assumption logs 7, 9, 10): the byte of a buffer space that is unspecified since the given draw,
at an index (R78, R256). The same byte at every read. -/
opaque freeByte : Space → Nat → Nat → Byte

/-- Free value (assumption log 9): the byte of `DTEXT` at a position, unspecified since the given draw (R256). -/
opaque freeRingByte : Nat → Nat → Byte

/-- Free value (assumption log 9): `DR`, unspecified since the given draw (R256). -/
opaque freePos : Nat → Pos

/-- Free value (assumption log 9): `OUT_LEN`, unspecified since the given draw (R256). -/
opaque freeWord : Nat → Word

end Config

end Sys2Proof
end

