-- ==== Sys2Proof/Syntax.lean ====
section
/-! DEFINITION. The instructions: one constructor per row of spec/opcode_table.json, and the small types the
stream decoders answer with. -/

namespace Sys2Proof

/-- The fourteen host commands (spec/30_encoding.md R92), the four LZSS stream items (R95 to R98) and the three
Golomb-Rice codes (R103 to R105). A command has no operand in its word (R90). -/
inductive Instr where
  /-- `SYS.RESET` (R240) -/
  | sysReset
  /-- `LZ.CRESET` (R150) -/
  | lzCreset
  /-- `LZ.COMP` (R151) -/
  | lzComp
  /-- `LZ.STORE` (R153) -/
  | lzStore
  /-- `LZ.RESTORE` (R154) -/
  | lzRestore
  /-- `LZ.CBLK` (R155) -/
  | lzCblk
  /-- `LZ.DRESET` (R170) -/
  | lzDreset
  /-- `LZ.PRIME` (R171) -/
  | lzPrime
  /-- `LZ.DECOMP` (R172) -/
  | lzDecomp
  /-- `GR.DEC` (R192) -/
  | grDec
  /-- `PK.GT` (R221) -/
  | pkGt
  /-- `PK.ADD` (R222) -/
  | pkAdd
  /-- `PK.AVG` (R223) -/
  | pkAvg
  /-- `PK.MED` (R224) -/
  | pkMed
  /-- `CTRL`, the control byte; bit `i` is the kind of the group's token `i+1` (R95) -/
  | ctrl (f : Byte)
  /-- `LIT`, the literal token (R96) -/
  | lit (c : Byte)
  /-- `MATCH`, the short match token: window offset and length code 0..14 (R97) -/
  | lzMatch (offset : Pos) (lc : BitVec 4)
  /-- `MATCHX`, the long match token: window offset and length extension (R98) -/
  | lzMatchx (offset : Pos) (ext : Byte)
  /-- `GAMMA`, the run-length code: `z` leading zero bits, suffix `s` (R103) -/
  | gamma (z s : Nat)
  /-- `GOLOMB`, the normal residual code: unary quotient `q`, remainder `r` (R104) -/
  | golomb (q r : Nat)
  /-- `GOLOMBX`, the long-code escape: quotient byte `q`, remainder `r` (R105) -/
  | golombx (q : Byte) (r : Nat)
  deriving DecidableEq, Repr

/-- A stream item of `LZ.DECOMP`: what its token decoder answers. -/
inductive LzToken where
  /-- a control byte -/
  | ctrl (f : Byte)
  /-- a literal -/
  | lit (c : Byte)
  /-- a short match -/
  | short (offset : Pos) (lc : BitVec 4)
  /-- a long match -/
  | long (offset : Pos) (ext : Byte)
  deriving DecidableEq, Repr

/-- A code of `GR.DEC`: what its bit-pool decoder answers. -/
inductive GrCode where
  /-- a run length -/
  | gamma (z s : Nat)
  /-- a residual in the normal form -/
  | golomb (q r : Nat)
  /-- a residual in the long form -/
  | golombx (q : Byte) (r : Nat)
  deriving DecidableEq, Repr

/-- The instruction a stream item is. -/
def LzToken.instr : LzToken → Instr
  | .ctrl f => .ctrl f
  | .lit c => .lit c
  | .short p lc => .lzMatch p lc
  | .long p e => .lzMatchx p e

/-- The instruction a Golomb code is. -/
def GrCode.instr : GrCode → Instr
  | .gamma z s => .gamma z s
  | .golomb q r => .golomb q r
  | .golombx q r => .golombx q r

/-- The Golomb bit cursor (spec/43_golomb.md R193): it denotes stream bit `8*bp + bit`. -/
structure BitCursor where
  /-- byte index into `POOL` -/
  bp : Nat
  /-- bit index inside the byte, 0..7 -/
  bit : Nat
  deriving DecidableEq, Repr

/-- Why a decoder does not answer an instruction. -/
inductive Reject where
  /-- bits 31:8 of a command word are not zero (R93) -/
  | highBits
  /-- the opcode is none of the fourteen (R93) -/
  | unassigned
  /-- the token stream ends inside a token, found after `used` bytes of it (R100, R172) -/
  | truncated (used : Nat)
  /-- a pool fetch at byte `bp` reaches past the pool's length (R77) -/
  | poolRange (bp : Nat)
  /-- a run-length code with 25 or more leading zeros (R194) -/
  | countTooLong
  deriving DecidableEq, Repr

/-- What a decoder answers: a value, or a rejection by name. -/
inductive Decoded (α : Type) where
  /-- the value read -/
  | ok (a : α)
  /-- rejected -/
  | reject (r : Reject)
  deriving DecidableEq, Repr

/-- What an instruction is written as: a command word, stream bytes in stream order, or pool bits in stream
order. -/
inductive Encoded where
  /-- the 32-bit word written to `CMD` (R91) -/
  | command (w : Word)
  /-- bytes in stream order (R95 to R98) -/
  | bytes (bs : List Byte)
  /-- bits in stream order (R103 to R105) -/
  | bits (bs : List Bool)
  deriving DecidableEq, Repr

end Sys2Proof
end

