-- ==== Sys2Proof/Machine/Tables.lean ====
section
/-! DEFINITION. The read-only tables: the opcode numbers, the Golomb ROMs `LZT` and `GBL`, the priming pattern, and
what the dictionary arrays hold at reset. Held as definitions, since nothing writes them (assumption log 12). -/

namespace Sys2Proof

/-- The opcode numbers of spec/30_encoding.md R92. -/
def opcodeTable : List (Nat × Instr) :=
  [(0x01, .sysReset), (0x10, .lzCreset), (0x11, .lzComp), (0x12, .lzStore), (0x13, .lzRestore),
   (0x14, .lzCblk), (0x20, .lzDreset), (0x21, .lzPrime), (0x22, .lzDecomp), (0x30, .grDec),
   (0x40, .pkGt), (0x41, .pkAdd), (0x42, .pkAvg), (0x43, .pkMed)]

/-- One plus the index of the lowest 1 bit among the low `fuel` bits, or 0 when all are 0. -/
def firstOne : Nat → Nat → Nat
  | 0, _ => 0
  | fuel + 1, w => if w % 2 = 1 then 1 else match firstOne fuel (w / 2) with
    | 0 => 0
    | n + 1 => n + 2

/-- `LZT`, the leading-zero table over 12-bit windows (spec/43_golomb.md R190; ROM, R35). -/
def lzt (w : BitVec 12) : Nat := firstOne 12 w.toNat

/-- Row `n` of the compression table `GC` (R191). -/
def gc (n : Nat) : List Nat :=
  match n with
  | 0 => [3, 7, 15, 27, 63, 108, 223, 448, 130]
  | 1 => [3, 5, 13, 24, 51, 95, 192, 384, 257]
  | 2 => [2, 5, 12, 21, 39, 86, 155, 320, 384]
  | _ => [2, 3, 9, 18, 33, 61, 129, 258, 511]

/-- The parameter in force at accumulator value `a`, when `runs` says for how many consecutive values each
parameter from `i` on holds. -/
def runIndex : List Nat → Nat → Nat → Nat
  | [], _, i => i
  | c :: cs, a, i => if a < c then i else runIndex cs (a - c) (i + 1)

/-- `GBL[a][n]`, the Golomb parameter (R191; ROM, R36), for `a` below 1024 and `n` below 4. -/
def gbl (a n : Nat) : Nat := runIndex (gc n) a 0

/-- The priming pattern of `LZ.PRIME` at window position `p` (spec/42_lz_decompress.md R171). -/
def primeByte (p : Nat) : Byte :=
  if (p / 4) % 2 = 0 then BitVec.ofNat 8 (p / 128) else BitVec.ofNat 8 ((p / 8) % 16)

/-- What `CMAP` holds at reset (spec/10_state.md R28, R39). -/
def resetMap (h : Nat) : Option Pos := if h = 0 then some 0#12 else none

/-- What `CNEXT` holds at reset (R29, R39). -/
def resetNext (p : Nat) : Option Pos := if p < 4095 then some (BitVec.ofNat 12 (p + 1)) else none

/-- What `CPREV` holds at reset (R29, R39). -/
def resetPrev (p : Nat) : Option Pos := if p = 0 then none else some (BitVec.ofNat 12 (p - 1))

/-- What `CTEXT` and `DTEXT` hold at reset (R27, R33, R39). -/
def resetText (_ : Nat) : Byte := 0#8

end Sys2Proof
end

