-- ==== Sys2Proof/WellFormed.lean ====
section
/-! DEFINITION. Which instructions are well formed: the ranges that the encodings of spec/30_encoding.md put on
operands and that the operands' types do not already say. -/

namespace Sys2Proof

/-- A `MATCH` length code is 0..14, since 15 is `MATCHX` (R97); a count has at most 24 leading zeros and a suffix
of that many bits (R103); a unary quotient ends inside a 32-bit window (R104); a remainder has at most 8 bits
(R104, R105). Every command, control byte, literal and long match is well formed (R100). -/
def Instr.wf : Instr → Bool
  | .sysReset => true
  | .lzCreset => true
  | .lzComp => true
  | .lzStore => true
  | .lzRestore => true
  | .lzCblk => true
  | .lzDreset => true
  | .lzPrime => true
  | .lzDecomp => true
  | .grDec => true
  | .pkGt => true
  | .pkAdd => true
  | .pkAvg => true
  | .pkMed => true
  | .ctrl _ => true
  | .lit _ => true
  | .lzMatch _ lc => decide (lc ≠ 15#4)
  | .lzMatchx _ _ => true
  | .gamma z s => decide (z ≤ 24) && decide (s < 2 ^ z)
  | .golomb q r => decide (q ≤ 31) && decide (r < 2 ^ 8)
  | .golombx _ r => decide (r < 2 ^ 8)

/-- What a residual code must meet at a cursor and a Golomb parameter, beyond being well formed: its remainder has
exactly `k` bits, and the unary form ends inside the window at bit `bit` (R104, R105). -/
def Instr.fitsAt (bit k : Nat) : Instr → Bool
  | .golomb q r => decide (q ≤ 31 - bit) && decide (r < 2 ^ k)
  | .golombx _ r => decide (r < 2 ^ k)
  | .gamma z s => decide (z ≤ 24) && decide (s < 2 ^ z)
  | .sysReset => false
  | .lzCreset => false
  | .lzComp => false
  | .lzStore => false
  | .lzRestore => false
  | .lzCblk => false
  | .lzDreset => false
  | .lzPrime => false
  | .lzDecomp => false
  | .grDec => false
  | .pkGt => false
  | .pkAdd => false
  | .pkAvg => false
  | .pkMed => false
  | .ctrl _ => false
  | .lit _ => false
  | .lzMatch _ _ => false
  | .lzMatchx _ _ => false

end Sys2Proof
end

