-- ==== Sys2Proof/Decode.lean ====
section
/-! DEFINITION. Decoding, total and rejecting by name, of command words (spec/30_encoding.md R91 to R93), LZSS
stream items (R94 to R101) and Golomb-Rice codes (R102 to R105 with the reading procedures of
spec/43_golomb.md R193 to R197); and after it the encoder. -/

namespace Sys2Proof

/-! ## Command words -/

/-- The instruction of an opcode, by the table of R92. -/
def opcodeInstr (op : Nat) : Option Instr := (opcodeTable.find? (fun e => e.1 == op)).map Prod.snd

/-- Decode a word written to `CMD` (R91 to R93): bits 31:8 zero and an assigned opcode, else rejected. -/
def decodeCommand (w : Word) : Decoded Instr :=
  if w.extractLsb' 8 24 = 0#24 then
    match opcodeInstr (w.extractLsb' 0 8).toNat with
    | some i => .ok i
    | none => .reject .unassigned
  else .reject .highBits

/-! ## LZSS stream items -/

/-- Decode a control byte from the stream's bytes (R95). -/
def decodeControl : List Byte → Decoded (LzToken × List Byte)
  | [] => .reject (.truncated 0)
  | b :: rest => .ok (.ctrl b, rest)

/-- The window offset of a match token's first two bytes (R97 to R99). -/
def matchOffset (b0 b1 : Byte) : Pos := b1.extractLsb' 0 4 ++ b0

/-- Decode a token from the stream's bytes, given its control bit (R96 to R101). A match cut before its second
byte is found at its first byte, one cut before its extension byte is found after its second (R172). -/
def decodeToken (isMatch : Bool) (bs : List Byte) : Decoded (LzToken × List Byte) :=
  match isMatch, bs with
  | false, [] => .reject (.truncated 0)
  | false, c :: rest => .ok (.lit c, rest)
  | true, b0 :: b1 :: rest =>
    if b1.extractLsb' 4 4 = 15#4 then
      match rest with
      | [] => .reject (.truncated 2)
      | b2 :: rest2 => .ok (.long (matchOffset b0 b1) b2, rest2)
    else .ok (.short (matchOffset b0 b1) (b1.extractLsb' 4 4), rest)
  | true, _ => .reject (.truncated 0)

/-! ## Golomb-Rice codes: reading the bit pool -/

/-- `Advance(c)` (R193). -/
def BitCursor.advance (c : BitCursor) (n : Nat) : BitCursor := ⟨c.bp + (c.bit + n) / 8, (c.bit + n) % 8⟩

/-- `Fetch32(bp)` (spec/20_memory.md R77): little-endian, `pool bp` in bits 7:0. -/
def fetch32 (pool : Nat → Byte) (len bp : Nat) : Decoded Word :=
  if bp + 4 > len then .reject (.poolRange bp)
  else .ok (pool (bp + 3) ++ pool (bp + 2) ++ pool (bp + 1) ++ pool bp)

/-- `FetchByte(bp)` (R77). -/
def fetchByte (pool : Nat → Byte) (len bp : Nat) : Decoded Byte :=
  if bp + 1 > len then .reject (.poolRange bp) else .ok (pool bp)

/-- `W()`, the window at the cursor (R193). -/
def window (pool : Nat → Byte) (len : Nat) (c : BitCursor) : Decoded Word :=
  match fetch32 pool len c.bp with
  | .reject r => .reject r
  | .ok t => .ok (t >>> c.bit)

/-- What stepping over zero bits answers. -/
structure ZeroRun where
  /-- zero bits before the 1, plus one -/
  count : Nat
  /-- the window last fetched -/
  win : Word
  /-- `LZT` of that window: bits up to and including the 1 -/
  used : Nat
  /-- the cursor of that window -/
  cur : BitCursor
  deriving DecidableEq, Repr

/-- The loop shared by `GAMMA()` and `VALUE()` (R194, R196): while a window's low twelve bits are 0, step over
them and fetch again. `z` counts the bits stepped over. Each turn moves the cursor on by twelve bits, so `fuel` of
the pool's length in bytes is never used up before a fetch passes the pool (assumption log 14). -/
def skipZeros (pool : Nat → Byte) (len : Nat) : Nat → BitCursor → Nat → Decoded ZeroRun
  | fuel, c, z =>
    match window pool len c with
    | .reject r => .reject r
    | .ok t =>
      if lzt (t.extractLsb' 0 12) = 0 then
        match fuel with
        | 0 => .reject (.poolRange c.bp)
        | fuel' + 1 => skipZeros pool len fuel' (c.advance 12) (z + 12)
      else .ok ⟨z + lzt (t.extractLsb' 0 12), t, lzt (t.extractLsb' 0 12), c⟩

/-- `GAMMA()` (R194): the run-length code at the cursor, and the cursor after it. The suffix window is fetched even
when there is no suffix. -/
def gammaAt (pool : Nat → Byte) (len : Nat) (c : BitCursor) : Decoded (GrCode × BitCursor) :=
  match skipZeros pool len len c 0 with
  | .reject r => .reject r
  | .ok run =>
    if 25 ≤ run.count - 1 then .reject .countTooLong
    else match window pool len (run.cur.advance run.used) with
      | .reject r => .reject r
      | .ok t =>
        .ok (.gamma (run.count - 1) (t.toNat % 2 ^ (run.count - 1)),
          (run.cur.advance run.used).advance (run.count - 1))

/-- `ESCAPE()` (R197): the quotient byte after the window, then the remainder from the next byte on. -/
def escapeAt (pool : Nat → Byte) (len k : Nat) (c : BitCursor) : Decoded (GrCode × BitCursor) :=
  match fetchByte pool len (c.bp + 4) with
  | .reject r => .reject r
  | .ok q =>
    match window pool len ⟨c.bp + 5, 0⟩ with
    | .reject r => .reject r
    | .ok t => .ok (.golombx q (t.toNat % 2 ^ k), BitCursor.advance ⟨c.bp + 5, 0⟩ k)

/-- The reading part of `VALUE()` (R196) with the Golomb parameter `k`: the residual code at the cursor, and the
cursor after it. A window of all zeros is the escape. -/
def valueAt (pool : Nat → Byte) (len k : Nat) (c : BitCursor) : Decoded (GrCode × BitCursor) :=
  match window pool len c with
  | .reject r => .reject r
  | .ok t =>
    if t = 0#32 then escapeAt pool len k c
    else match skipZeros pool len len c 0 with
      | .reject r => .reject r
      | .ok run =>
        .ok (.golomb (run.count - 1) ((run.win >>> run.used).toNat % 2 ^ k), run.cur.advance (run.used + k))

/-! ## The word of a table row -/

/-- Bytes of a number, the lowest first. -/
def bytesOf : Nat → Nat → List Byte
  | 0, _ => []
  | n + 1, w => BitVec.ofNat 8 w :: bytesOf n (w / 256)

/-- The instruction read from a table row's bits. 32 bits are a command word; 8 bits stand where a control byte
stands; 16 and 24 bits stand where a token with control bit 1 stands, followed by zeros (assumption log 15). -/
def decodeTableWord (nbits w : Nat) : Option Instr :=
  match nbits with
  | 32 => match decodeCommand (BitVec.ofNat 32 w) with
    | .ok i => some i
    | .reject _ => none
  | 8 => match decodeControl (bytesOf 1 w) with
    | .ok (t, _) => some t.instr
    | .reject _ => none
  | 16 => match decodeToken true (bytesOf 2 w ++ [0#8]) with
    | .ok (t, _) => some t.instr
    | .reject _ => none
  | 24 => match decodeToken true (bytesOf 3 w) with
    | .ok (t, _) => some t.instr
    | .reject _ => none
  | _ => none

/-! ## The encoder -/

/-- The 32-bit word of a command (R91, R92). -/
def commandWord (op : Byte) : Word := 0#24 ++ op

/-- The bytes of a stream item in stream order (R95 to R99). -/
def LzToken.bytes : LzToken → List Byte
  | .ctrl f => [f]
  | .lit c => [c]
  | .short p lc => [p.extractLsb' 0 8, lc ++ p.extractLsb' 8 4]
  | .long p e => [p.extractLsb' 0 8, 15#4 ++ p.extractLsb' 8 4, e]

/-- The low `n` bits of a number, the least significant first. -/
def lsbBits : Nat → Nat → List Bool
  | 0, _ => []
  | n + 1, v => decide (v % 2 = 1) :: lsbBits n (v / 2)

/-- The bits of a Golomb-Rice code in stream order, at bit `bit` of its byte and with parameter `k` (R103 to
R105). -/
def GrCode.bits (bit k : Nat) : GrCode → List Bool
  | .gamma z s => List.replicate z false ++ true :: lsbBits z s
  | .golomb q r => List.replicate q false ++ true :: lsbBits k r
  | .golombx q r => List.replicate (32 - bit) false ++ lsbBits 8 q.toNat ++ lsbBits k r

/-- What an instruction is written as. For a Golomb-Rice code, `bit` and `k` are where it stands in its byte and
the parameter in force; nothing else reads them. -/
def encode (bit k : Nat) : Instr → Encoded
  | .sysReset => .command (commandWord 0x01#8)
  | .lzCreset => .command (commandWord 0x10#8)
  | .lzComp => .command (commandWord 0x11#8)
  | .lzStore => .command (commandWord 0x12#8)
  | .lzRestore => .command (commandWord 0x13#8)
  | .lzCblk => .command (commandWord 0x14#8)
  | .lzDreset => .command (commandWord 0x20#8)
  | .lzPrime => .command (commandWord 0x21#8)
  | .lzDecomp => .command (commandWord 0x22#8)
  | .grDec => .command (commandWord 0x30#8)
  | .pkGt => .command (commandWord 0x40#8)
  | .pkAdd => .command (commandWord 0x41#8)
  | .pkAvg => .command (commandWord 0x42#8)
  | .pkMed => .command (commandWord 0x43#8)
  | .ctrl f => .bytes (LzToken.bytes (.ctrl f))
  | .lit c => .bytes (LzToken.bytes (.lit c))
  | .lzMatch p lc => .bytes (LzToken.bytes (.short p lc))
  | .lzMatchx p e => .bytes (LzToken.bytes (.long p e))
  | .gamma z s => .bits (GrCode.bits bit k (.gamma z s))
  | .golomb q r => .bits (GrCode.bits bit k (.golomb q r))
  | .golombx q r => .bits (GrCode.bits bit k (.golombx q r))

end Sys2Proof
end

