-- ==== Sys2Proof/Machine/State.lean ====
section
/-! DEFINITION. The machine's state as plain data, its reset value, and the model's own reasons to stop.
The state is the table of spec/10_state.md R20, with the model's own fields marked as such. -/

namespace Sys2Proof.Machine

/-- Why the model itself stops. The block's own faults are not here: they are next states (spec/60_exceptions.md
R255). -/
inductive Fault where
  /-- Raised by a host access to a buffer at an index that is not below the space's capacity. The spec gives such
  an index no meaning (20_memory.md R69). Safe: the model stops where the platform may go on. -/
  | hostIndexOutside (sp : Space) (i : Nat)
  deriving DecidableEq, Repr

/-- Why the model has no meaning to give. -/
inductive Refusal where
  /-- Raised by an arm of `exec` whose instruction has no meaning yet; no arm of this model does. Safe. -/
  | notModelled (mnemonic : String)
  deriving DecidableEq, Repr

/-- The faults of the block (spec/60_exceptions.md R251). -/
inductive Cause where
  /-- `ILLEGAL_CMD`, code 1 -/
  | illegalCmd
  /-- `BAD_OPERAND`, code 2 -/
  | badOperand
  /-- `OUT_OVERFLOW`, code 3 -/
  | outOverflow
  /-- `LZ_TRUNCATED`, code 4 -/
  | lzTruncated
  /-- `NO_SNAPSHOT`, code 5 -/
  | noSnapshot
  /-- `GR_INDEX_RANGE`, code 6 -/
  | grIndexRange
  /-- `GR_TABLE_RANGE`, code 7 -/
  | grTableRange
  /-- `GR_OVERRUN`, code 8 -/
  | grOverrun
  deriving DecidableEq, Repr

/-- A buffer memory: the bytes written since the given draw, by rising address. An address that is not listed has
not been written since, and reads as that draw's free byte (spec/20_memory.md R78; assumption log 7). -/
structure Memory where
  /-- the bytes written, addresses strictly rising -/
  cells : List Host.Cell
  /-- the draw that gives the bytes not listed -/
  draw : Nat
  deriving DecidableEq, Repr, Inhabited

/-- The twelve operand and result registers (spec/10_state.md R21), by name. -/
structure Regs where
  /-- `x[0]`, number of valid bytes in `IBUF` -/
  inLen : Word
  /-- `x[1]`, number of bytes produced in `OBUF` -/
  outLen : Word
  /-- `x[2]`, 0 = compressed, 1 = stored raw -/
  mark : Word
  /-- `x[3]`, index of the first pixel word -/
  pixBase : Word
  /-- `x[4]`, number of pixels to decode -/
  pixCount : Word
  /-- `x[5]`, lane to write -/
  chan : Word
  /-- `x[6]`, 1 = initialise whole words -/
  first : Word
  /-- `x[7]`, bytes of `POOL` the decoder may fetch -/
  poolLen : Word
  /-- `x[8]`, packed operand a -/
  pkA : Word
  /-- `x[9]`, packed operand b -/
  pkB : Word
  /-- `x[10]`, packed operand c -/
  pkC : Word
  /-- `x[11]`, packed result -/
  pkY : Word
  deriving DecidableEq, Repr, Inhabited

/-- The register names of R21. -/
inductive Reg where
  /-- `x[0]` -/
  | inLen
  /-- `x[1]` -/
  | outLen
  /-- `x[2]` -/
  | mark
  /-- `x[3]` -/
  | pixBase
  /-- `x[4]` -/
  | pixCount
  /-- `x[5]` -/
  | chan
  /-- `x[6]` -/
  | first
  /-- `x[7]` -/
  | poolLen
  /-- `x[8]` -/
  | pkA
  /-- `x[9]` -/
  | pkB
  /-- `x[10]` -/
  | pkC
  /-- `x[11]` -/
  | pkY
  deriving DecidableEq, Repr

/-- An LZC dictionary: the live one (spec/10_state.md R27 to R30) or the snapshot bank (R32). Each array lists
the entries that differ from its reset content (R39), by rising index; an index not listed reads as that content
(assumption log 13). -/
structure Lzc where
  /-- `CTEXT`: the window 0..4095 and its mirror 4096..4367; index 4368 is never used (R27) -/
  text : List (Nat × Byte)
  /-- `CMAP`: the newest position of each 16-bit key, or NIL (R28) -/
  map : List (Nat × Option Pos)
  /-- `CPREV`: the next newer position with the same key, or NIL (R29) -/
  prev : List (Nat × Option Pos)
  /-- `CNEXT`: the next older position with the same key, or NIL (R29) -/
  next : List (Nat × Option Pos)
  /-- `CS`: the write cursor (R30) -/
  cs : Pos
  deriving DecidableEq, Repr, Inhabited

/-- The LZD ring and cursor (R33, R34). The ring lists the bytes that are not 0, by rising position. -/
structure Lzd where
  /-- `DTEXT` -/
  text : List (Nat × Byte)
  /-- `DR` -/
  dr : Pos
  deriving DecidableEq, Repr, Inhabited

/-- Which command is running. Between commands it is `idle`; the model's own field (assumption log 4). -/
inductive Phase where
  /-- no command is running -/
  | idle
  /-- inside `LZ.DECOMP`, between two stream items -/
  | lzDecomp
  /-- inside `GR.DEC`, between two codes -/
  | grDec
  deriving DecidableEq, Repr

/-- The transient values of `LZ.DECOMP` (R25, spec/42_lz_decompress.md R172); all 0 outside it. -/
structure LzCursor where
  /-- byte index into `IBUF` of the next stream byte -/
  ip : Nat
  /-- byte index into `OBUF` of the next output byte -/
  op : Nat
  /-- control bits not yet used -/
  ctrl : Byte
  /-- how many control bits are left in the group -/
  nbits : Nat
  deriving DecidableEq, Repr, Inhabited

/-- The transient values of `GR.DEC` (R25, R37, spec/43_golomb.md R192); all 0 outside it. -/
structure GrCursor where
  /-- index of the next pixel word -/
  i : Nat
  /-- index after the last pixel word wanted -/
  lim : Nat
  /-- the bit cursor -/
  cur : BitCursor
  /-- the context, 3 down to 0 -/
  n : Nat
  /-- the running accumulator -/
  a : Nat
  /-- the next run, or the one going on, is a zero run -/
  zero : Bool
  /-- residuals left in the non-zero run going on -/
  run : Nat
  deriving DecidableEq, Repr

/-- What the host does to the block besides writing `CMD` (spec/10_state.md R21 to R24, spec/20_memory.md R60). -/
inductive HostAccess where
  /-- write an operand or result register -/
  | writeReg (r : Reg) (v : Word)
  /-- read one -/
  | readReg (r : Reg)
  /-- read `CMD` -/
  | readCmd
  /-- write `ERR` -/
  | writeErr (v : Word)
  /-- read `ERR` -/
  | readErr
  /-- write `ERR_INFO` -/
  | writeErrInfo (v : Word)
  /-- read `ERR_INFO` -/
  | readErrInfo
  /-- write a byte of a buffer; `PIX` is seen as bytes, lane `k` of word `i` at `4i+k` (R64) -/
  | writeByte (sp : Space) (i : Nat) (b : Byte)
  /-- read a byte of a buffer -/
  | readByte (sp : Space) (i : Nat)
  /-- write a word of `PIX` -/
  | writePix (i : Nat) (v : Word)
  /-- read a word of `PIX` -/
  | readPix (i : Nat)
  deriving DecidableEq, Repr

/-- What can happen to the block from outside (spec/70_reset_and_hazards.md R280). -/
inductive Event where
  /-- power-on reset -/
  | powerOn
  /-- a host write to `CMD` -/
  | writeCmd (w : Word)
  /-- any other host access -/
  | access (a : HostAccess)
  deriving DecidableEq, Repr

/-- The state: the architectural state of R20, then the model's own fields. `CMD` has no storage (R22), and the ROMs
`LZT` and `GBL` are definitions (assumption log 12). -/
structure State where
  /-- the operand and result registers `x[0..11]` (R21) -/
  x : Regs
  /-- `ERR` (R23) -/
  err : Byte
  /-- `ERR_INFO` (R24) -/
  errInfo : Word
  /-- the live LZC dictionary (R27 to R30) -/
  lzc : Lzc
  /-- the snapshot bank (R32) -/
  snap : Lzc
  /-- `SNAP_VALID` (R26) -/
  snapValid : Bool
  /-- the LZD ring and cursor (R33, R34) -/
  lzd : Lzd
  /-- `IBUF` (R61) -/
  ibuf : Memory
  /-- `OBUF` (R62) -/
  obuf : Memory
  /-- `POOL` (R63) -/
  pool : Memory
  /-- `PIX` (R64), as bytes: lane `k` of word `i` at `4i+k` (assumption log 25) -/
  pix : Memory
  /-- the configuration of R6; no step writes it (the model's own field, assumption log 2) -/
  cfg : Config
  /-- which command is running (the model's own field, assumption log 4) -/
  phase : Phase
  /-- transient values of `LZ.DECOMP` (the model's own field, assumption log 4) -/
  lz : LzCursor
  /-- transient values of `GR.DEC` (the model's own field, assumption log 4) -/
  gr : GrCursor
  /-- what the outside has still to do, oldest first (the model's own field, assumption log 6) -/
  events : List Event
  /-- what the last host read returned (the model's own field, assumption log 17) -/
  bus : Word
  /-- how many free values have been drawn (the model's own field, assumption log 11) -/
  draws : Nat
  deriving DecidableEq, Repr

/-- Free value (assumption log 8): the snapshot bank's contents, unspecified since the given draw (R32, R39). -/
opaque freeBank : Nat → Lzc

/-- The LZC reset state: every entry as R39 lists it. -/
def Lzc.fresh : Lzc where
  text := []
  map := []
  prev := []
  next := []
  cs := 0#12

/-- The LZD reset state (R39). -/
def Lzd.fresh : Lzd where
  text := []
  dr := 0#12

/-- Every register 0 (R39). -/
def Regs.zero : Regs where
  inLen := 0#32
  outLen := 0#32
  mark := 0#32
  pixBase := 0#32
  pixCount := 0#32
  chan := 0#32
  first := 0#32
  poolLen := 0#32
  pkA := 0#32
  pkB := 0#32
  pkC := 0#32
  pkY := 0#32

/-- No `LZ.DECOMP` running. -/
def LzCursor.none : LzCursor where
  ip := 0
  op := 0
  ctrl := 0#8
  nbits := 0

/-- No `GR.DEC` running. -/
def GrCursor.none : GrCursor where
  i := 0
  lim := 0
  cur := ⟨0, 0⟩
  n := 0
  a := 0
  zero := false
  run := 0

/-- The state after power-on of a machine with the given configuration: R39, with what it leaves unspecified (the
buffers, the snapshot bank) drawn free. -/
def State.powerUp (cfg : Config) (draw : Nat) : State where
  x := Regs.zero
  err := 0#8
  errInfo := 0#32
  lzc := Lzc.fresh
  snap := freeBank draw
  snapValid := false
  lzd := Lzd.fresh
  ibuf := ⟨[], draw⟩
  obuf := ⟨[], draw⟩
  pool := ⟨[], draw⟩
  pix := ⟨[], draw⟩
  cfg := cfg
  phase := .idle
  lz := LzCursor.none
  gr := GrCursor.none
  events := []
  bus := 0#32
  draws := draw + 1

/-- The machine right after power-on reset (R39, spec/70_reset_and_hazards.md R280, R281). -/
def State.reset : State := State.powerUp Config.built 0

end Sys2Proof.Machine
end

