-- ==== Sys2Proof/Machine/Ops.lean ====
section
/-! DEFINITION. The named operations over state: sparse arrays in canonical form, buffer memories, registers, fault
entry (spec/60_exceptions.md R255) and the one way out of it (R257). -/

namespace Sys2Proof.Machine

/-! ## Sparse arrays: lists of (index, value), indices strictly rising -/

/-- The entry listed at an index. -/
def tabFind {α : Type} : List (Nat × α) → Nat → Option α
  | [], _ => none
  | (k, v) :: rest, a => if k = a then some v else tabFind rest a

/-- List a value at an index, in order. -/
def tabPut {α : Type} : List (Nat × α) → Nat → α → List (Nat × α)
  | [], a, v => [(a, v)]
  | (k, w) :: rest, a, v =>
    if k = a then (a, v) :: rest
    else if a < k then (a, v) :: (k, w) :: rest
    else (k, w) :: tabPut rest a v

/-- Take an index off the list. -/
def tabErase {α : Type} : List (Nat × α) → Nat → List (Nat × α)
  | [], _ => []
  | (k, w) :: rest, a => if k = a then tabErase rest a else (k, w) :: tabErase rest a

/-- Read an array whose unlisted entries hold `d`. -/
def tabGet {α : Type} (d : Nat → α) (l : List (Nat × α)) (a : Nat) : α := (tabFind l a).getD (d a)

/-- Write an array whose unlisted entries hold `d`; writing that content takes the entry off the list. -/
def tabSet {α : Type} [DecidableEq α] (d : Nat → α) (l : List (Nat × α)) (a : Nat) (v : α) : List (Nat × α) :=
  if v = d a then tabErase l a else tabPut l a v

/-- The array of `n` entries `f 0`, `f 1`, ... whose unlisted entries hold `d`. (Irreducible: elaboration need never
list the entries of a large array.) -/
@[irreducible] def tabOfFn {α : Type} [DecidableEq α] (d : Nat → α) (n : Nat) (f : Nat → α) : List (Nat × α) :=
  (List.range n).filterMap (fun i => if f i = d i then none else some (i, f i))

/-- Indices strictly rising. -/
abbrev tabSorted {α : Type} (l : List (Nat × α)) : Prop := (l.map Prod.fst).Pairwise (· < ·)

/-- The canonical form of an array of `n` entries: rising, in range, nothing listed that an unlisted entry holds. -/
abbrev tabCanon {α : Type} [DecidableEq α] (d : Nat → α) (n : Nat) (l : List (Nat × α)) : Prop :=
  tabSorted l ∧ ∀ e ∈ l, e.1 < n ∧ e.2 ≠ d e.1

/-! ## Buffer memories (spec/20_memory.md R60 to R64) -/

/-- A byte of a buffer: the one last written, or the free byte of the memory's draw (R78). -/
def Memory.read (sp : Space) (m : Memory) (a : Nat) : Byte :=
  (tabFind m.cells a).getD (Config.freeByte sp m.draw a)

/-- Write a byte of a buffer. -/
def Memory.write (m : Memory) (a : Nat) (b : Byte) : Memory := ⟨tabPut m.cells a b, m.draw⟩

/-- The canonical form: addresses strictly rising. An unlisted address holds no written byte, so no listed entry
can equal what an unlisted one holds (assumption log 7). -/
abbrev Memory.wf (m : Memory) : Prop := tabSorted m.cells

/-! ## Field updates -/

/-- Write the field `x`. -/
def State.setX (s : State) (v : Regs) : State := { s with x := v }

/-- Write the field `err`. -/
def State.setErr (s : State) (v : Byte) : State := { s with err := v }

/-- Write the field `errInfo`. -/
def State.setErrInfo (s : State) (v : Word) : State := { s with errInfo := v }

/-- Write the field `lzc`. -/
def State.setLzc (s : State) (v : Lzc) : State := { s with lzc := v }

/-- Write the field `snap`. -/
def State.setSnap (s : State) (v : Lzc) : State := { s with snap := v }

/-- Write the field `snapValid`. -/
def State.setSnapValid (s : State) (v : Bool) : State := { s with snapValid := v }

/-- Write the field `lzd`. -/
def State.setLzd (s : State) (v : Lzd) : State := { s with lzd := v }

/-- Write the field `ibuf`. -/
def State.setIbuf (s : State) (v : Memory) : State := { s with ibuf := v }

/-- Write the field `obuf`. -/
def State.setObuf (s : State) (v : Memory) : State := { s with obuf := v }

/-- Write the field `pool`. -/
def State.setPool (s : State) (v : Memory) : State := { s with pool := v }

/-- Write the field `pix`. -/
def State.setPix (s : State) (v : Memory) : State := { s with pix := v }

/-- Write the field `phase`. -/
def State.setPhase (s : State) (v : Phase) : State := { s with phase := v }

/-- Write the field `lz`. -/
def State.setLz (s : State) (v : LzCursor) : State := { s with lz := v }

/-- Write the field `gr`. -/
def State.setGr (s : State) (v : GrCursor) : State := { s with gr := v }

/-- Write the field `events`. -/
def State.setEvents (s : State) (v : List Event) : State := { s with events := v }

/-- Write the field `bus`. -/
def State.setBus (s : State) (v : Word) : State := { s with bus := v }

/-- Write the field `draws`. -/
def State.setDraws (s : State) (v : Nat) : State := { s with draws := v }

/-! ## Registers (spec/10_state.md R21) -/

/-- Read a register by name (R21). -/
def Regs.read (x : Regs) (r : Reg) : Word :=
  match r with
  | .inLen => x.inLen
  | .outLen => x.outLen
  | .mark => x.mark
  | .pixBase => x.pixBase
  | .pixCount => x.pixCount
  | .chan => x.chan
  | .first => x.first
  | .poolLen => x.poolLen
  | .pkA => x.pkA
  | .pkB => x.pkB
  | .pkC => x.pkC
  | .pkY => x.pkY

/-- Write a register by name (R21): that one only. -/
def Regs.write (x : Regs) (r : Reg) (v : Word) : Regs :=
  match r with
  | .inLen => { x with inLen := v }
  | .outLen => { x with outLen := v }
  | .mark => { x with mark := v }
  | .pixBase => { x with pixBase := v }
  | .pixCount => { x with pixCount := v }
  | .chan => { x with chan := v }
  | .first => { x with first := v }
  | .poolLen => { x with poolLen := v }
  | .pkA => { x with pkA := v }
  | .pkB => { x with pkB := v }
  | .pkC => { x with pkC := v }
  | .pkY => { x with pkY := v }

/-- Write `OUT_LEN`. -/
def State.setOutLen (s : State) (v : Word) : State := s.setX { s.x with outLen := v }

/-- Write `MARK`. -/
def State.setMark (s : State) (v : Word) : State := s.setX { s.x with mark := v }

/-- Write `PK_Y`. -/
def State.setPkY (s : State) (v : Word) : State := s.setX { s.x with pkY := v }

/-! ## The buffers of a state -/

/-- The memory of a space. -/
def State.mem (s : State) (sp : Space) : Memory :=
  match sp with
  | .ibuf => s.ibuf
  | .obuf => s.obuf
  | .pool => s.pool
  | .pix => s.pix

/-- Replace the memory of a space. -/
def State.setMem (s : State) (sp : Space) (m : Memory) : State :=
  match sp with
  | .ibuf => s.setIbuf m
  | .obuf => s.setObuf m
  | .pool => s.setPool m
  | .pix => s.setPix m

/-- How many bytes a space has (R6, R60). -/
def State.capacity (s : State) (sp : Space) : Nat :=
  match sp with
  | .ibuf => s.cfg.ibufCap
  | .obuf => s.cfg.obufCap
  | .pool => s.cfg.poolCap
  | .pix => 4 * s.cfg.pixCap

/-- `MemRead(S, a, 1)` (spec/00_scope.md R9): what the host and the commands read at an index. -/
def State.readByte (s : State) (sp : Space) (a : Nat) : Byte := (s.mem sp).read sp a

/-- `MemWrite(S, a, 1, b)` (R9). -/
def State.writeByte (s : State) (sp : Space) (a : Nat) (b : Byte) : State := s.setMem sp ((s.mem sp).write a b)

/-- Write bytes one after another from an index on. -/
def State.writeBytes (s : State) (sp : Space) (a : Nat) (bs : List Byte) : State :=
  match bs with
  | [] => s
  | b :: rest => (s.writeByte sp a b).writeBytes sp (a + 1) rest

/-- Word `i` of `PIX`: lane `k` is byte `4i+k` (R64, R65). -/
def State.readPixWord (s : State) (i : Nat) : Word :=
  s.readByte .pix (4 * i + 3) ++ s.readByte .pix (4 * i + 2) ++ s.readByte .pix (4 * i + 1) ++ s.readByte .pix (4 * i)

/-- `PixWriteLane(i, k, b)` (R64): the other lanes keep their value. -/
def State.writePixLane (s : State) (i k : Nat) (b : Byte) : State := s.writeByte .pix (4 * i + k) b

/-- `PixWriteWord(i, v)` (R64). -/
def State.writePixWord (s : State) (i : Nat) (v : Word) : State :=
  (((s.writePixLane i 0 (v.extractLsb' 0 8)).writePixLane i 1 (v.extractLsb' 8 8)).writePixLane i 2
    (v.extractLsb' 16 8)).writePixLane i 3 (v.extractLsb' 24 8)

/-! ## The LZD ring (R33, R34) -/

/-- `DTEXT[p]`. -/
def Lzd.get (d : Lzd) (p : Pos) : Byte := tabGet resetText d.text p.toNat

/-- `DTEXT[DR] <- c`, then `DR <- DR (+) 1` (spec/42_lz_decompress.md R174, R175). -/
def Lzd.push (d : Lzd) (c : Byte) : Lzd := ⟨tabSet resetText d.text d.dr.toNat c, d.dr + 1#12⟩

/-! ## Taking a fault, and the way out of it -/

/-- The code of a fault (spec/60_exceptions.md R251). -/
def Cause.code : Cause → Byte
  | .illegalCmd => 1#8
  | .badOperand => 2#8
  | .outOverflow => 3#8
  | .lzTruncated => 4#8
  | .noSnapshot => 5#8
  | .grIndexRange => 6#8
  | .grTableRange => 7#8
  | .grOverrun => 8#8

/-- `FaultEntry(F, info)` (R255): the code and the detail, modulo 2^32; nothing else is saved. -/
def raise (c : Cause) (info : Nat) (s : State) : State := (s.setErr c.code).setErrInfo (BitVec.ofNat 32 info)

/-- Every item of R39's table at its value after reset; the buffers, the snapshot bank and the model's own
configuration, pending events, bus and draw count stay. This is `SYS.RESET`'s effect (spec/45_system.md R240), the
only command that leaves the faulted condition (R257). -/
def resetBlock (s : State) : State where
  x := Regs.zero
  err := 0#8
  errInfo := 0#32
  lzc := Lzc.fresh
  snap := s.snap
  snapValid := false
  lzd := Lzd.fresh
  ibuf := s.ibuf
  obuf := s.obuf
  pool := s.pool
  pix := s.pix
  cfg := s.cfg
  phase := .idle
  lz := LzCursor.none
  gr := GrCursor.none
  events := s.events
  bus := s.bus
  draws := s.draws

/-- Power-on reset (R280): as after reset, with buffers and snapshot bank unspecified anew. -/
def powerOnReset (s : State) : State :=
  ((State.powerUp s.cfg s.draws).setEvents s.events)

/-- The common prologue's refusal (R241, R242): while `ERR` is not 0 a command does nothing. -/
def whenReady (f : State → State) (s : State) : State := if s.err = 0#8 then f s else s

/-- A command ends: its transient values are gone (R25, R37). -/
def endCommand (s : State) : State := ((s.setPhase .idle).setLz LzCursor.none).setGr GrCursor.none

/-! ## What a data fault leaves unspecified (R256) -/

/-- A ring whose bytes and cursor are the free values of a draw. -/
def Lzd.free (draw : Nat) : Lzd :=
  ⟨tabOfFn resetText 4096 (Config.freeRingByte draw), Config.freePos draw⟩

/-- After `LZ_TRUNCATED` or `OUT_OVERFLOW`: `DTEXT`, `DR`, the contents of `OBUF` and `OUT_LEN` are free values
(assumption log 9). -/
def lzUnspecify (s : State) : State :=
  (((s.setLzd (Lzd.free s.draws)).setObuf ⟨[], s.draws⟩).setOutLen (Config.freeWord s.draws)).setDraws (s.draws + 1)

/-- Lanes of `n` words of `PIX` from word `i` on become free values of draw `d`: all four, or lane `lane` only. -/
def forgetWords (d : Nat) (whole : Bool) (lane : Nat) : Nat → Nat → State → State
  | 0, _, s => s
  | n + 1, i, s =>
    forgetWords d whole lane n (i + 1)
      (if whole then
        (((s.writePixLane i 0 (Config.freeByte .pix d (4 * i))).writePixLane i 1
          (Config.freeByte .pix d (4 * i + 1))).writePixLane i 2
          (Config.freeByte .pix d (4 * i + 2))).writePixLane i 3 (Config.freeByte .pix d (4 * i + 3))
      else s.writePixLane i lane (Config.freeByte .pix d (4 * i + lane)))

/-- After a data fault of `GR.DEC`: the words `PIX[PIX_BASE .. PIX_BASE+PIX_COUNT-1]`, for `FIRST = 0` only their
lane `CHAN`, are free values (assumption log 10). -/
def grUnspecify (s : State) : State :=
  (forgetWords s.draws (s.x.first == 1#32) s.x.chan.toNat s.x.pixCount.toNat s.x.pixBase.toNat s).setDraws
    (s.draws + 1)

/-- A fault part-way through `LZ.DECOMP` ends it (R255, R256 (b)). -/
def lzAbort (c : Cause) (info : Nat) (s : State) : State := raise c info (lzUnspecify (endCommand s))

/-- A fault part-way through `GR.DEC` ends it (R255, R256 (c)). -/
def grAbort (c : Cause) (info : Nat) (s : State) : State := raise c info (grUnspecify (endCommand s))

end Sys2Proof.Machine
end

