-- ==== Sys2Proof/Machine/Dictionary.lean ====
section
/-! DEFINITION. The LZC dictionary primitives and the match finder (spec/40_lz_dictionary.md R130 to R137). They
are not commands; the compress commands are built from them. -/

namespace Sys2Proof.Machine

/-! ## The arrays (spec/10_state.md R27 to R29) -/

/-- `CTEXT[i]`, with a linear index 0..4368 (R27). -/
def Lzc.getText (l : Lzc) (i : Nat) : Byte := tabGet resetText l.text i

/-- `CTEXT[i] <- c`. -/
def Lzc.setText (l : Lzc) (i : Nat) (c : Byte) : Lzc := { l with text := tabSet resetText l.text i c }

/-- `CMAP[h]` (R28). -/
def Lzc.getMap (l : Lzc) (h : BitVec 16) : Option Pos := tabGet resetMap l.map h.toNat

/-- `CMAP[h] <- v`. -/
def Lzc.setMap (l : Lzc) (h : BitVec 16) (v : Option Pos) : Lzc := { l with map := tabSet resetMap l.map h.toNat v }

/-- `CPREV[p]` (R29). -/
def Lzc.getPrev (l : Lzc) (p : Pos) : Option Pos := tabGet resetPrev l.prev p.toNat

/-- `CPREV[p] <- v`. -/
def Lzc.setPrev (l : Lzc) (p : Pos) (v : Option Pos) : Lzc := { l with prev := tabSet resetPrev l.prev p.toNat v }

/-- `CNEXT[p]` (R29). -/
def Lzc.getNext (l : Lzc) (p : Pos) : Option Pos := tabGet resetNext l.next p.toNat

/-- `CNEXT[p] <- v`. -/
def Lzc.setNext (l : Lzc) (p : Pos) (v : Option Pos) : Lzc := { l with next := tabSet resetNext l.next p.toNat v }

/-- `CS <- p` (R30). -/
def Lzc.setCs (l : Lzc) (p : Pos) : Lzc := { l with cs := p }

/-! ## Key, insert, delete, put -/

/-- The key of two bytes, the first the low half (R130). -/
def keyOf (c0 c1 : Byte) : BitVec 16 := c1 ++ c0

/-- `KEY(p)` (R130): both bytes from the window, the second with wrap-around. -/
def Lzc.key (l : Lzc) (p : Pos) : BitVec 16 := keyOf (l.getText p.toNat) (l.getText (p + 1#12).toNat)

/-- `INSERT(p)` (R131). When the chain is empty only `CMAP` is written. -/
def Lzc.insert (l : Lzc) (p : Pos) : Lzc :=
  match l.getMap (l.key p) with
  | none => l.setMap (l.key p) (some p)
  | some old => (((l.setMap (l.key p) (some p)).setPrev old (some p)).setNext p (some old)).setPrev p none

/-- First write of `DELETE(p)`: the next older position, if there is one, takes `p`'s newer neighbour (R132). -/
def Lzc.unlinkOlder (l : Lzc) (p : Pos) : Lzc :=
  match l.getNext p with
  | none => l
  | some n => l.setPrev n (l.getPrev p)

/-- `DELETE(p)` (R132). Links and key are those before any write. -/
def Lzc.delete (l : Lzc) (p : Pos) : Lzc :=
  match l.getPrev p with
  | some pv => (((l.unlinkOlder p).setNext pv (l.getNext p)).setPrev p none).setNext p none
  | none => (((l.unlinkOlder p).setMap (l.key p) (l.getNext p)).setPrev p none).setNext p none

/-- The two text writes of `PUTBYTE`: the mirror when the cursor is below 272, then the window (R133, R27). -/
def Lzc.storeAtCursor (l : Lzc) (c : Byte) : Lzc :=
  if l.cs.toNat < 272 then (l.setText (4096 + l.cs.toNat) c).setText l.cs.toNat c else l.setText l.cs.toNat c

/-- `PUTBYTE(c)` (R133, R285): both deletes see the old keys, both inserts the new ones; `CS (-) 1` goes in before
`CS`. -/
def Lzc.putByte (l : Lzc) (c : Byte) : Lzc :=
  ((((((l.delete (l.cs - 1#12)).delete l.cs).storeAtCursor c).insert (l.cs - 1#12)).insert l.cs).setCs (l.cs + 1#12))

/-- `PUTBYTE` of each byte in order. -/
def Lzc.putBytes (l : Lzc) (cs : List Byte) : Lzc := cs.foldl Lzc.putByte l

/-! ## The match finder -/

/-- How many bytes of the input, at most `n`, equal `CTEXT` from the linear index `j` on (R136). -/
def Lzc.sameBytes (l : Lzc) : Nat → Nat → List Byte → Nat
  | 0, _, _ => 0
  | _ + 1, _, [] => 0
  | n + 1, j, c :: rest => if l.getText j = c then l.sameBytes n (j + 1) rest + 1 else 0

/-- A candidate that "equals or trails the current cursor" is skipped (R135). -/
def Lzc.skips (l : Lzc) (p : Pos) : Bool := decide (p = l.cs) || decide (p + 1#12 = l.cs)

/-- The match length of a candidate (R135, R136): the first two bytes are equal by the key; the compare of
`third`, the input from its third byte on, stops at the lookahead `la` and at the cursor. -/
def Lzc.matchLen (l : Lzc) (la : Nat) (third : List Byte) (p : Pos) : Nat :=
  l.sameBytes (min la (l.cs - p).toNat - 2) (p.toNat + 2) third + 2

/-- The walk along the chain, newest first (R134, R137): a strictly longer match replaces the best one, and length
273 ends the walk. `fuel` bounds the number of candidates; chains have at most 4096 (R292, assumption log 14). -/
def Lzc.walk (l : Lzc) (la : Nat) (third : List Byte) : Nat → Option Pos → Nat → Pos → Nat × Pos
  | _, none, best, pos => (best, pos)
  | 0, some _, best, pos => (best, pos)
  | fuel + 1, some p, best, pos =>
    if l.skips p then l.walk la third fuel (l.getNext p) best pos
    else if best < l.matchLen la third p then
      if l.matchLen la third p = 273 then (l.matchLen la third p, p)
      else l.walk la third fuel (l.getNext p) (l.matchLen la third p) p
    else if l.matchLen la third p = 273 then (best, pos)
    else l.walk la third fuel (l.getNext p) best pos

/-- `FINDMATCH` for the input that is left (R134): nothing with fewer than three bytes; else the longest usable
match, looking at most `min(273, rem - 1)` bytes ahead. -/
def Lzc.findMatch (l : Lzc) (inp : List Byte) : Nat × Pos :=
  match inp with
  | c0 :: c1 :: c2 :: rest =>
    l.walk (min 273 (inp.length - 1)) (c2 :: rest) 4096 (l.getMap (keyOf c0 c1)) 0 0#12
  | _ => (0, 0#12)

end Sys2Proof.Machine
end

