-- ==== Sys2Proof/Machine/Flags.lean ====
section
/-! DEFINITION. The two one-bit conditions that persist between commands (spec/10_state.md R26). There are no
arithmetic flags: no operation sets carry, zero, sign or overflow. -/

namespace Sys2Proof.Machine

/-- "Faulted": `ERR != 0` (R26 (a)). -/
def State.faulted (s : State) : Bool := decide (s.err ≠ 0#8)

/-- `SNAP_VALID <- 1` (R26 (b)). -/
def State.markSnapshot (s : State) : State := s.setSnapValid true

/-- `SNAP_VALID <- 0` (R26 (b)). -/
def State.clearSnapshot (s : State) : State := s.setSnapValid false

end Sys2Proof.Machine
end

