-- ==== Sys2Proof/Machine/Operands.lean ====
section
/-! DEFINITION. Operands: the registers and buffers a command reads (spec/10_state.md R21, spec/30_encoding.md R92),
the operand checks (spec/60_exceptions.md R254), and the packed word's lanes (spec/44_packed.md R220). -/

namespace Sys2Proof.Machine

/-- `IN_LEN` as a number. -/
def State.inLen (s : State) : Nat := s.x.inLen.toNat

/-- `POOL_LEN` as a number. -/
def State.poolLen (s : State) : Nat := s.x.poolLen.toNat

/-- `PIX_BASE` as a number. -/
def State.pixBase (s : State) : Nat := s.x.pixBase.toNat

/-- `PIX_COUNT` as a number. -/
def State.pixCount (s : State) : Nat := s.x.pixCount.toNat

/-- `n` bytes of `IBUF` from an index on. -/
def State.inputFrom (s : State) : Nat → Nat → List Byte
  | _, 0 => []
  | a, n + 1 => s.readByte .ibuf a :: s.inputFrom (a + 1) n

/-- `IBUF[0 .. IN_LEN-1]`, the input of an LZ command (spec/20_memory.md R61). -/
def State.input (s : State) : List Byte := s.inputFrom 0 s.inLen

/-- `POOL` as the Golomb decoder reads it (R63, R77). -/
def State.poolByte (s : State) (a : Nat) : Byte := s.readByte .pool a

/-- Operand check 0 (R254). -/
def inputTooLong (s : State) : Bool := decide (s.inLen > s.cfg.ibufCap)

/-- Operand check 1: the worst case of the compressed output (R254, spec/41_lz_compress.md R156). -/
def outputTooSmall (s : State) : Bool := decide (s.inLen + (s.inLen + 7) / 8 > s.cfg.obufCap)

/-- The checks of `LZ.DECOMP`, each with its number. -/
def decompChecks (s : State) : List (Bool × Nat) := [(inputTooLong s, 0)]

/-- The checks of `LZ.COMP` and `LZ.CBLK`. -/
def compChecks (s : State) : List (Bool × Nat) := [(inputTooLong s, 0), (outputTooSmall s, 1)]

/-- The checks of `GR.DEC` (R192, R254); the sum of check 6 is one of natural numbers. -/
def grChecks (s : State) : List (Bool × Nat) :=
  [(decide (s.x.chan.toNat > 3), 2),
   (decide (s.x.first.toNat > 1), 3),
   (decide (s.x.first.toNat = 1) && decide (s.x.chan.toNat ≠ 0), 4),
   (decide (s.poolLen > s.cfg.poolCap), 5),
   (decide (s.pixBase + s.pixCount > s.cfg.pixCap), 6)]

/-- The number of the first check that fails (R254). -/
def firstFailing : List (Bool × Nat) → Option Nat
  | [] => none
  | (failed, k) :: rest => if failed then some k else firstFailing rest

/-- Make the checks in order, then run the rest; a failing check raises `BAD_OPERAND` with its number and changes
nothing else (R254, R256 (a)). -/
def checked (checks : State → List (Bool × Nat)) (f : State → State) (s : State) : State :=
  match firstFailing (checks s) with
  | some k => raise .badOperand k s
  | none => f s

/-- `lane(X, k)` (R220). -/
def lane (w : Word) (k : Nat) : Byte := w.extractLsb' (8 * k) 8

/-- `pack(l0, l1, l2, l3)` (R220). -/
def pack (l0 l1 l2 l3 : Byte) : Word := l3 ++ l2 ++ l1 ++ l0

end Sys2Proof.Machine
end

