-- ==== Sys2Proof/Machine/Compress.lean ====
section
/-! DEFINITION. The LZC commands (spec/41_lz_compress.md R150 to R157). -/

namespace Sys2Proof.Machine

/-! ## COMPRESS (R151, R152) -/

/-- The values of `COMPRESS` between two tokens: the dictionary, the bytes flushed so far, and the pending group:
its control byte, its token bytes, and the control bit of its next token. -/
structure Comp where
  /-- the live dictionary -/
  lzc : Lzc
  /-- bytes of the groups flushed -/
  out : List Byte
  /-- `code[0]` of the pending group -/
  ctl : Byte
  /-- the token bytes of the pending group -/
  toks : List Byte
  /-- one-hot marker of the next token's control bit -/
  mask : Byte
  deriving DecidableEq, Repr

/-- `COMPRESS` before the first token. -/
def Comp.start (l : Lzc) : Comp := ⟨l, [], 0#8, [], 1#8⟩

/-- Record a token (R151, R152): its bit and its bytes join the group; after the eighth, when the marker is shifted
out, the group is flushed, control byte first. -/
def Comp.record (c : Comp) (isMatch : Bool) (bytes : List Byte) : Comp :=
  let ctl := if isMatch then c.ctl ||| c.mask else c.ctl
  if c.mask <<< 1 = 0#8 then ⟨c.lzc, c.out ++ ctl :: (c.toks ++ bytes), 0#8, [], 1#8⟩
  else ⟨c.lzc, c.out, ctl, c.toks ++ bytes, c.mask <<< 1⟩

/-- The token of a match of length `len` at `pos` (spec/30_encoding.md R99). -/
def matchToken (len : Nat) (pos : Pos) : LzToken :=
  if 18 ≤ len then .long pos (BitVec.ofNat 8 (len - 18)) else .short pos (BitVec.ofNat 4 (len - 3))

/-- Put bytes into the dictionary of a compression. -/
def Comp.put (c : Comp) (bytes : List Byte) : Comp := { c with lzc := c.lzc.putBytes bytes }

/-- One token: a match when the finder gives at least 3, else a literal; the match is searched before any of its
bytes is put into the dictionary (R151). Answers how many input bytes the token takes. -/
def Comp.token (c : Comp) (inp : List Byte) : Nat × Comp :=
  if 3 ≤ (c.lzc.findMatch inp).1 then
    ((c.lzc.findMatch inp).1,
      (c.put (inp.take (c.lzc.findMatch inp).1)).record true
        (matchToken (c.lzc.findMatch inp).1 (c.lzc.findMatch inp).2).bytes)
  else (1, (c.put (inp.take 1)).record false (inp.take 1))

/-- The loop of `COMPRESS` (R151). Every token takes at least one byte, so `fuel` of the input's length is enough
(assumption log 14). -/
def Comp.loop : Nat → List Byte → Comp → Comp
  | 0, _, c => c
  | _ + 1, [], c => c
  | fuel + 1, b :: rest, c => Comp.loop fuel ((b :: rest).drop (c.token (b :: rest)).1) (c.token (b :: rest)).2

/-- The end of input: a pending group is flushed if it holds a token (R151; conflict C4). -/
def Comp.flushed (c : Comp) : List Byte := if c.mask = 1#8 then c.out else c.out ++ c.ctl :: c.toks

/-- `COMPRESS()` (R151): the bytes emitted, and the dictionary after it. -/
def compress (l : Lzc) (inp : List Byte) : List Byte × Lzc :=
  ((Comp.loop inp.length inp (Comp.start l)).flushed, (Comp.loop inp.length inp (Comp.start l)).lzc)

/-! ## The commands -/

/-- `LZ.CRESET` (R150): the reset state of LZC, and no valid snapshot. The construction R150 gives by inserts ends in
exactly this state; `Lzc.insertDown 4096 Lzc.cleared` is that construction (assumption log 13). -/
def lzCreset (s : State) : State := (s.setLzc Lzc.fresh).clearSnapshot

/-- Every array NIL or 0 and the cursor 0: where the construction of R150 starts. -/
def Lzc.cleared : Lzc where
  text := []
  map := tabOfFn resetMap 65536 (fun _ => none)
  prev := tabOfFn resetPrev 4096 (fun _ => none)
  next := tabOfFn resetNext 4096 (fun _ => none)
  cs := 0#12

/-- `INSERT(p)` for `p` from `n - 1` down to 0; from cleared arrays with `n` = 4096 this is the construction of R150
and R39. -/
def Lzc.insertDown : Nat → Lzc → Lzc
  | 0, l => l
  | n + 1, l => Lzc.insertDown n (l.insert (BitVec.ofNat 12 n))

/-- `LZ.COMP` past its checks (R151). -/
def lzComp (s : State) : State :=
  ((s.writeBytes .obuf 0 (compress s.lzc s.input).1).setLzc (compress s.lzc s.input).2).setOutLen
    (BitVec.ofNat 32 (compress s.lzc s.input).1.length)

/-- `LZ.STORE` (R153): a copy of the live dictionary. -/
def lzStore (s : State) : State := (s.setSnap s.lzc).markSnapshot

/-- `LZ.RESTORE` (R154): faults without a snapshot; else the bank is copied back and stays. -/
def lzRestore (s : State) : State := if s.snapValid then s.setLzc s.snap else raise .noSnapshot 0 s

/-- The raw outcome of `LZ.CBLK`, after the attempt (R155): the dictionary is rolled back, and the input is copied over
the attempt's output. What the attempt wrote past the input's length stays (assumption log 26). -/
def storeRaw (s : State) : State :=
  (((s.setLzc s.snap).writeBytes .obuf 0 s.input).setMark 1#32).setOutLen s.x.inLen

/-- `LZ.CBLK` past its checks (R155): store, attempt, keep if strictly smaller, else roll back and store raw. -/
def lzCblk (s : State) : State :=
  if (compress s.lzc s.input).1.length < s.inLen then (lzComp (lzStore s)).setMark 0#32
  else storeRaw (lzComp (lzStore s))

/-! ## Meanings -/

/-- The meaning of `LZ.CRESET` (R150). -/
def execLzCreset (s : State) : Host.Outcome State Fault Refusal := .next (whenReady lzCreset s)

/-- The meaning of `LZ.COMP` (R151). -/
def execLzComp (s : State) : Host.Outcome State Fault Refusal := .next (whenReady (checked compChecks lzComp) s)

/-- The meaning of `LZ.STORE` (R153). -/
def execLzStore (s : State) : Host.Outcome State Fault Refusal := .next (whenReady lzStore s)

/-- The meaning of `LZ.RESTORE` (R154). -/
def execLzRestore (s : State) : Host.Outcome State Fault Refusal := .next (whenReady lzRestore s)

/-- The meaning of `LZ.CBLK` (R155). -/
def execLzCblk (s : State) : Host.Outcome State Fault Refusal := .next (whenReady (checked compChecks lzCblk) s)

end Sys2Proof.Machine
end

