-- ==== Sys2Proof/Machine/Decompress.lean ====
section
/-! DEFINITION. The LZD commands and the LZSS stream items (spec/42_lz_decompress.md R170 to R176). `LZ.DECOMP` is one
atomic step; it is made of the same item meanings that the items have on their own (assumption logs 4 and 5). -/

namespace Sys2Proof.Machine

/-! ## The stream items (R173 to R175) -/

/-- Move the stream cursor past an item of `n` bytes. -/
def State.skipInput (s : State) (n : Nat) : State := s.setLz { s.lz with ip := s.lz.ip + n }

/-- Use up one control bit (R172). -/
def State.useControlBit (s : State) : State :=
  s.setLz { s.lz with ctrl := s.lz.ctrl >>> 1, nbits := s.lz.nbits - 1 }

/-- One output byte (R174, R175): into the ring at `DR` and into `OBUF` at `op`; both cursors move on. -/
def State.emit (s : State) (c : Byte) : State :=
  ((s.setLzd (s.lzd.push c)).writeByte .obuf s.lz.op c).setLz { s.lz with op := s.lz.op + 1 }

/-- The byte-serial copy of a match (R175): each byte is written before the next is read. -/
def copyMatch : Nat → Pos → State → State
  | 0, _, s => s
  | n + 1, p, s => copyMatch n (p + 1#12) (s.emit (s.lzd.get p))

/-- `CTRL` (R172, R173): a fresh group of eight control bits; a control byte that is the last byte of the input is
truncated. -/
def ctrlItem (f : Byte) (s : State) : State :=
  if s.lz.ip + 1 = s.inLen then lzAbort .lzTruncated (s.lz.ip + 1) s
  else s.setLz { s.lz with ip := s.lz.ip + 1, ctrl := f, nbits := 8 }

/-- `LIT` (R172, R174). -/
def litItem (c : Byte) (s : State) : State :=
  if s.lz.op + 1 > s.cfg.obufCap then lzAbort .outOverflow s.lz.op s
  else ((s.useControlBit).skipInput 1).emit c

/-- `MATCH` and `MATCHX` (R172, R175): `len` bytes from window position `p`, by an item of `bytes` bytes. The token is
checked in full before any of its output is written. -/
def matchItem (bytes len : Nat) (p : Pos) (s : State) : State :=
  if s.lz.op + len > s.cfg.obufCap then lzAbort .outOverflow s.lz.op s
  else copyMatch len p ((s.useControlBit).skipInput bytes)

/-- The length of a short match (spec/30_encoding.md R99). -/
def shortLen (lc : BitVec 4) : Nat := lc.toNat + 3

/-- The length of a long match (R99). -/
def longLen (ext : Byte) : Nat := 18 + ext.toNat

/-- What a stream item does. -/
def runToken (t : LzToken) (s : State) : State :=
  match t with
  | .ctrl f => ctrlItem f s
  | .lit c => litItem c s
  | .short p lc => matchItem 2 (shortLen lc) p s
  | .long p e => matchItem 3 (longLen e) p s

/-! ## Fetching the next item (R172, spec/30_encoding.md R101) -/

/-- What the next move of a running `LZ.DECOMP` is. -/
inductive LzFetch where
  /-- the input is used up at a token boundary -/
  | done
  /-- a fault, with its detail -/
  | raise (c : Cause) (info : Nat)
  /-- the next item -/
  | token (t : LzToken)
  deriving DecidableEq, Repr

/-- The bytes an item at the stream cursor may have: at most three, and none at or past `IN_LEN`. -/
def State.itemBytes (s : State) : List Byte := s.inputFrom s.lz.ip (min 3 (s.inLen - s.lz.ip))

/-- Decode the item at the stream cursor: a control byte when the group's control bits are used up, else a token of
the kind the next control bit says (R172). -/
def State.decodeItem (s : State) : Decoded (LzToken × List Byte) :=
  if s.lz.nbits = 0 then decodeControl s.itemBytes else decodeToken (s.lz.ctrl.getLsbD 0) s.itemBytes

/-- The next move of `LZ.DECOMP` (R172). A token cut short faults with the stream cursor where it was found. -/
def lzFetch (s : State) : LzFetch :=
  if s.inLen ≤ s.lz.ip then .done
  else match s.decodeItem with
    | .ok (t, _) => .token t
    | .reject (.truncated used) => .raise .lzTruncated (s.lz.ip + used)
    | .reject _ => .raise .lzTruncated s.lz.ip

/-- The end of `LZ.DECOMP` (R172): `OUT_LEN <- op`. -/
def lzFinish (s : State) : State := (endCommand s).setOutLen (BitVec.ofNat 32 s.lz.op)

/-- One move of a running `LZ.DECOMP`. -/
def lzMicro (s : State) : State :=
  match lzFetch s with
  | .done => lzFinish s
  | .raise c info => lzAbort c info s
  | .token t => runToken t s

/-- Moves until the command has ended. -/
def lzRun : Nat → State → State
  | 0, s => s
  | fuel + 1, s => if s.phase = .lzDecomp then lzRun fuel (lzMicro s) else s

/-- `LZ.DECOMP` past its check, before its first item (R172). -/
def lzBegin (s : State) : State := (s.setPhase .lzDecomp).setLz LzCursor.none

/-- `LZ.DECOMP` past its check (R172). Every item takes at least one byte, so one move a byte and one for the end
are enough (assumption log 14). -/
def lzDecomp (s : State) : State := lzRun (s.inLen + 1) (lzBegin s)

/-- `LZ.DRESET` (R170). -/
def lzDreset (s : State) : State := s.setLzd Lzd.fresh

/-- The primed ring (R171). -/
def Lzd.primed : Lzd := ⟨tabOfFn resetText 4096 primeByte, 0#12⟩

/-- `LZ.PRIME` (R171). -/
def lzPrime (s : State) : State := s.setLzd Lzd.primed

/-! ## Meanings -/

/-- The meaning of `LZ.DRESET` (R170). -/
def execLzDreset (s : State) : Host.Outcome State Fault Refusal := .next (whenReady lzDreset s)

/-- The meaning of `LZ.PRIME` (R171). -/
def execLzPrime (s : State) : Host.Outcome State Fault Refusal := .next (whenReady lzPrime s)

/-- The meaning of `LZ.DECOMP` (R172). -/
def execLzDecomp (s : State) : Host.Outcome State Fault Refusal := .next (whenReady (checked decompChecks lzDecomp) s)

/-- The meaning of `CTRL` (R173). -/
def execCtrl (f : Byte) (s : State) : Host.Outcome State Fault Refusal := .next (whenReady (ctrlItem f) s)

/-- The meaning of `LIT` (R174). -/
def execLit (c : Byte) (s : State) : Host.Outcome State Fault Refusal := .next (whenReady (litItem c) s)

/-- The meaning of `MATCH` (R175): two bytes, length 3 to 17. -/
def execLzMatch (p : Pos) (lc : BitVec 4) (s : State) : Host.Outcome State Fault Refusal :=
  .next (whenReady (matchItem 2 (shortLen lc) p) s)

/-- The meaning of `MATCHX` (R175): three bytes, length 18 to 273. -/
def execLzMatchx (p : Pos) (ext : Byte) (s : State) : Host.Outcome State Fault Refusal :=
  .next (whenReady (matchItem 3 (longLen ext) p) s)

end Sys2Proof.Machine
end

