-- ==== Sys2Proof/Machine/Golomb.lean ====
section
/-! DEFINITION. `GR.DEC` and the Golomb-Rice codes (spec/43_golomb.md R192 to R202). `GR.DEC` is one atomic step; it is
made of the same code meanings that the codes have on their own (assumption logs 4 and 5). -/

namespace Sys2Proof.Machine

/-! ## Residuals -/

/-- `SIGNMAP(v)` (R198): magnitude `v/2 + 1`, sign by the low bit and the polarity, truncated to 8 bits. -/
def signMap (evenPositive : Bool) (v : Nat) : Byte :=
  if decide (v % 2 = 0) = evenPositive then BitVec.ofNat 8 (v / 2 + 1) else -(BitVec.ofNat 8 (v / 2 + 1))

/-- `ADAPT(v)` (R199): add, step the context, halve when it wraps. -/
def GrCursor.adapt (g : GrCursor) (v : Nat) : GrCursor :=
  if g.n = 0 then { g with a := (g.a + v / 2) / 2, n := 3 } else { g with a := g.a + v / 2, n := g.n - 1 }

/-- `PutPix(i, e)` (R200): the whole word, zero-extended, for `FIRST = 1`; else lane `CHAN`. -/
def putPix (i : Nat) (e : Byte) (s : State) : State :=
  if s.x.first = 1#32 then s.writePixWord i (e.zeroExtend 32) else s.writePixLane i s.x.chan.toNat e

/-- `PutPix` of 0 to `n` words from word `i` on (R195). -/
def putZeros : Nat → Nat → State → State
  | 0, _, s => s
  | n + 1, i, s => putZeros n (i + 1) (putPix i 0#8 s)

/-! ## The codes (R194 to R197) -/

/-- `GAMMA` (R192, R194, R195): a run of `2^z + s`. A run past the pixels wanted faults; a zero run is written and
over; a non-zero run begins. -/
def gammaCode (z k : Nat) (s : State) : State :=
  if 25 ≤ z ∨ s.gr.i + (2 ^ z + k) > s.gr.lim then grAbort .grOverrun s.gr.i s
  else if s.gr.zero then
    (putZeros (2 ^ z + k) s.gr.i s).setGr
      { s.gr with i := s.gr.i + (2 ^ z + k), cur := s.gr.cur.advance (2 * z + 1), zero := false }
  else s.setGr { s.gr with cur := s.gr.cur.advance (2 * z + 1), run := 2 ^ z + k }

/-- The Golomb parameter in force (R196). -/
def State.golombParam (s : State) : Nat := gbl s.gr.a s.gr.n

/-- Count a residual of the run going on; after the last one the toggle flips (R192). -/
def GrCursor.countOne (g : GrCursor) : GrCursor :=
  if g.run ≤ 1 then { g with i := g.i + 1, run := 0, zero := true } else { g with i := g.i + 1, run := g.run - 1 }

/-- A residual with raw value `v`, the cursor going to `c` (R192, R196): written, adapted, counted. -/
def takeResidual (v : Nat) (c : BitCursor) (s : State) : State :=
  (putPix s.gr.i (signMap s.cfg.evenPositive v) s).setGr { (s.gr.adapt v).countOne with cur := c }

/-- `GOLOMB` (R196): raw value `q * 2^k + r`, `q + 1 + k` bits. -/
def golombCode (q r : Nat) (s : State) : State :=
  if 1024 ≤ s.gr.a then grAbort .grTableRange s.gr.a s
  else takeResidual (q * 2 ^ s.golombParam + r) (s.gr.cur.advance (q + 1 + s.golombParam)) s

/-- `GOLOMBX` (R197): the cursor goes to the byte after the quotient byte, then past the remainder. -/
def golombxCode (q : Byte) (r : Nat) (s : State) : State :=
  if 1024 ≤ s.gr.a then grAbort .grTableRange s.gr.a s
  else takeResidual (q.toNat * 2 ^ s.golombParam + r)
    (BitCursor.advance ⟨s.gr.cur.bp + 5, 0⟩ s.golombParam) s

/-- What a code does. -/
def runCode (c : GrCode) (s : State) : State :=
  match c with
  | .gamma z k => gammaCode z k s
  | .golomb q r => golombCode q r s
  | .golombx q r => golombxCode q r s

/-! ## Fetching the next code -/

/-- What the next move of a running `GR.DEC` is. -/
inductive GrFetch where
  /-- `PIX_COUNT` residuals have been produced -/
  | done
  /-- a fault, with its detail -/
  | raise (c : Cause) (info : Nat)
  /-- the next code -/
  | code (c : GrCode)
  deriving DecidableEq, Repr

/-- The fault a rejected code is, when the next pixel word is `i` (R201). -/
def grReject (i : Nat) : Reject → GrFetch
  | .poolRange bp => .raise .grIndexRange bp
  | .countTooLong => .raise .grOverrun i
  | .highBits => .raise .grOverrun i
  | .unassigned => .raise .grOverrun i
  | .truncated _ => .raise .grOverrun i

/-- The next move of `GR.DEC` (R192): a run length between runs; inside a non-zero run a residual, whose parameter
is looked up before any of its bits is fetched (R196, R258). -/
def grFetch (s : State) : GrFetch :=
  if s.gr.run = 0 then
    if s.gr.lim ≤ s.gr.i then .done
    else match gammaAt s.poolByte s.poolLen s.gr.cur with
      | .ok (c, _) => .code c
      | .reject r => grReject s.gr.i r
  else if 1024 ≤ s.gr.a then .raise .grTableRange s.gr.a
  else match valueAt s.poolByte s.poolLen s.golombParam s.gr.cur with
    | .ok (c, _) => .code c
    | .reject r => grReject s.gr.i r

/-- One move of a running `GR.DEC`. -/
def grMicro (s : State) : State :=
  match grFetch s with
  | .done => endCommand s
  | .raise c info => grAbort c info s
  | .code c => runCode c s

/-- Moves until the command has ended. -/
def grRun : Nat → State → State
  | 0, s => s
  | fuel + 1, s => if s.phase = .grDec then grRun fuel (grMicro s) else s

/-- `GR.DEC` past its checks, before its first run (R192): polarity bit 1 means that the first run is a non-zero
run. -/
def grBegin (polarity : Byte) (s : State) : State :=
  (s.setPhase .grDec).setGr
    { i := s.pixBase, lim := s.pixBase + s.pixCount, cur := ⟨0, 1⟩, n := 3, a := 0,
      zero := !polarity.getLsbD 0, run := 0 }

/-- `GR.DEC` past its checks (R192). Every run and every residual takes at least one pixel, so two moves a pixel and
one for the end are enough (assumption log 14). -/
def grDec (s : State) : State :=
  if s.pixCount = 0 then s
  else match fetchByte s.poolByte s.poolLen 0 with
    | .reject _ => grAbort .grIndexRange 0 s
    | .ok b => grRun (2 * s.pixCount + 1) (grBegin b s)

/-! ## Meanings -/

/-- The meaning of `GR.DEC` (R192). -/
def execGrDec (s : State) : Host.Outcome State Fault Refusal := .next (whenReady (checked grChecks grDec) s)

/-- The meaning of `GAMMA` (R194). -/
def execGamma (z k : Nat) (s : State) : Host.Outcome State Fault Refusal := .next (whenReady (gammaCode z k) s)

/-- The meaning of `GOLOMB` (R196). -/
def execGolomb (q r : Nat) (s : State) : Host.Outcome State Fault Refusal := .next (whenReady (golombCode q r) s)

/-- The meaning of `GOLOMBX` (R197). -/
def execGolombx (q : Byte) (r : Nat) (s : State) : Host.Outcome State Fault Refusal :=
  .next (whenReady (golombxCode q r) s)

end Sys2Proof.Machine
end

