-- ==== Sys2Proof/Machine/Packed.lean ====
section
/-! DEFINITION. The packed-byte kernels (spec/44_packed.md R220 to R224). Each lane of the result comes from the same
lane of the operands and from nothing else (R220). -/

namespace Sys2Proof.Machine

/-- One lane of `PK.GT` (R221): unsigned and strict. -/
def gtLane (a b : Byte) : Byte := if a.toNat > b.toNat then 0xFF#8 else 0x00#8

/-- One lane of `PK.ADD` (R222): modulo 256. -/
def addLane (a b : Byte) : Byte := BitVec.ofNat 8 (a.toNat + b.toNat)

/-- One lane of `PK.AVG` (R223): a 9-bit sum, rounded up. -/
def avgLane (a b : Byte) : Byte := BitVec.ofNat 8 ((a.toNat + b.toNat + 1) / 2)

/-- One lane of `PK.MED` (R224): the gradient clamped between the smaller and the larger of `a` and `b`. -/
def medLane (a b c : Byte) : Byte :=
  if c.toNat > max a.toNat b.toNat then BitVec.ofNat 8 (min a.toNat b.toNat)
  else if c.toNat < min a.toNat b.toNat then BitVec.ofNat 8 (max a.toNat b.toNat)
  else BitVec.ofNat 8 (a.toNat + b.toNat - c.toNat)

/-- A lane operation on two packed words (R220). -/
def lanes2 (f : Byte → Byte → Byte) (a b : Word) : Word :=
  pack (f (lane a 0) (lane b 0)) (f (lane a 1) (lane b 1)) (f (lane a 2) (lane b 2)) (f (lane a 3) (lane b 3))

/-- A lane operation on three packed words (R220). -/
def lanes3 (f : Byte → Byte → Byte → Byte) (a b c : Word) : Word :=
  pack (f (lane a 0) (lane b 0) (lane c 0)) (f (lane a 1) (lane b 1) (lane c 1))
    (f (lane a 2) (lane b 2) (lane c 2)) (f (lane a 3) (lane b 3) (lane c 3))

/-- `PK.GT` past the prologue (R221). -/
def pkGt (s : State) : State := s.setPkY (lanes2 gtLane s.x.pkA s.x.pkB)

/-- `PK.ADD` past the prologue (R222). -/
def pkAdd (s : State) : State := s.setPkY (lanes2 addLane s.x.pkA s.x.pkB)

/-- `PK.AVG` past the prologue (R223). -/
def pkAvg (s : State) : State := s.setPkY (lanes2 avgLane s.x.pkA s.x.pkB)

/-- `PK.MED` past the prologue (R224). -/
def pkMed (s : State) : State := s.setPkY (lanes3 medLane s.x.pkA s.x.pkB s.x.pkC)

/-- The meaning of `PK.GT` (R221). -/
def execPkGt (s : State) : Host.Outcome State Fault Refusal := .next (whenReady pkGt s)

/-- The meaning of `PK.ADD` (R222). -/
def execPkAdd (s : State) : Host.Outcome State Fault Refusal := .next (whenReady pkAdd s)

/-- The meaning of `PK.AVG` (R223). -/
def execPkAvg (s : State) : Host.Outcome State Fault Refusal := .next (whenReady pkAvg s)

/-- The meaning of `PK.MED` (R224). -/
def execPkMed (s : State) : Host.Outcome State Fault Refusal := .next (whenReady pkMed s)

end Sys2Proof.Machine
end

