-- ==== Sys2Proof/Machine/System.lean ====
section
/-! DEFINITION. `SYS.RESET` and the illegal command (spec/45_system.md R240 to R242). -/

namespace Sys2Proof.Machine

/-- The meaning of `SYS.RESET` (R240): accepted in any state, `ERR` or not (R241). -/
def execSysReset (s : State) : Host.Outcome State Fault Refusal := .next (resetBlock s)

/-- A word that is no command (spec/30_encoding.md R93): `ILLEGAL_CMD` with the word as detail; ignored while `ERR` is
not 0 (R242). -/
def illegalCommand (w : Word) (s : State) : State := whenReady (raise .illegalCmd w.toNat) s

end Sys2Proof.Machine
end

