-- ==== Sys2Proof/Machine/Dispatch.lean ====
section
/-! DEFINITION. The meaning of every instruction: one arm per row of spec/opcode_table.json. -/

namespace Sys2Proof.Machine

def exec (i : Instr) (s : State) : Host.Outcome State Fault Refusal :=
  match i with
  | .sysReset => Sys2Proof.Machine.execSysReset s
  | .lzCreset => Sys2Proof.Machine.execLzCreset s
  | .lzComp => Sys2Proof.Machine.execLzComp s
  | .lzStore => Sys2Proof.Machine.execLzStore s
  | .lzRestore => Sys2Proof.Machine.execLzRestore s
  | .lzCblk => Sys2Proof.Machine.execLzCblk s
  | .lzDreset => Sys2Proof.Machine.execLzDreset s
  | .lzPrime => Sys2Proof.Machine.execLzPrime s
  | .lzDecomp => Sys2Proof.Machine.execLzDecomp s
  | .grDec => Sys2Proof.Machine.execGrDec s
  | .pkGt => Sys2Proof.Machine.execPkGt s
  | .pkAdd => Sys2Proof.Machine.execPkAdd s
  | .pkAvg => Sys2Proof.Machine.execPkAvg s
  | .pkMed => Sys2Proof.Machine.execPkMed s
  | .ctrl f => Sys2Proof.Machine.execCtrl f s
  | .lit c => Sys2Proof.Machine.execLit c s
  | .lzMatch offset lc => Sys2Proof.Machine.execLzMatch offset lc s
  | .lzMatchx offset ext => Sys2Proof.Machine.execLzMatchx offset ext s
  | .gamma z k => Sys2Proof.Machine.execGamma z k s
  | .golomb q r => Sys2Proof.Machine.execGolomb q r s
  | .golombx q r => Sys2Proof.Machine.execGolombx q r s

end Sys2Proof.Machine
end

