-- ==== Sys2Proof/Machine/Access.lean ====
section
/-! DEFINITION. The host's accesses other than command writes (spec/10_state.md R21 to R24, R40, spec/20_memory.md R60,
R73; spec/92_eei_decisions.md D35). -/

namespace Sys2Proof.Machine

/-- An access to a buffer at an index: outside the space the model stops (assumption log 16). -/
def State.atIndex (s : State) (sp : Space) (i : Nat) (n : Nat) (t : State) : Host.Outcome State Fault Refusal :=
  if n * i + n ≤ s.capacity sp then .next t else .fault (.hostIndexOutside sp i)

/-- What a host access does. A read's value goes to `bus`; `CMD` reads 0 (R22); writes of `ERR` and `ERR_INFO` are
ignored (R23, R24, R264 (h)). -/
def hostAccess (a : HostAccess) (s : State) : Host.Outcome State Fault Refusal :=
  match a with
  | .writeReg r v => .next (s.setX (s.x.write r v))
  | .readReg r => .next (s.setBus (s.x.read r))
  | .readCmd => .next (s.setBus 0#32)
  | .writeErr _ => .next s
  | .readErr => .next (s.setBus (s.err.zeroExtend 32))
  | .writeErrInfo _ => .next s
  | .readErrInfo => .next (s.setBus s.errInfo)
  | .writeByte sp i b => s.atIndex sp i 1 (s.writeByte sp i b)
  | .readByte sp i => s.atIndex sp i 1 (s.setBus ((s.readByte sp i).zeroExtend 32))
  | .writePix i v => s.atIndex .pix i 4 (s.writePixWord i v)
  | .readPix i => s.atIndex .pix i 4 (s.setBus (s.readPixWord i))

end Sys2Proof.Machine
end

