-- ==== Sys2Proof/Machine/Fetch.lean ====
section
/-! DEFINITION. What the machine does next: the command prologue `Issue(w)` (spec/45_system.md R241), the host's other
accesses, or, inside a command, its next stream item (assumption logs 4 and 6). -/

namespace Sys2Proof.Machine

/-- What a step finds to do. -/
inductive Fetched where
  /-- run an instruction in a state -/
  | instr (i : Instr) (s : State)
  /-- something that is no instruction, with its outcome -/
  | other (o : Host.Outcome State Fault Refusal)

/-- The next move between commands: the oldest pending event. With none the block waits (spec/00_scope.md R10). -/
def fetchEvent (s : State) : Fetched :=
  match s.events with
  | [] => .other (.next s)
  | .powerOn :: rest => .other (.next (powerOnReset (s.setEvents rest)))
  | .access a :: rest => .other (hostAccess a (s.setEvents rest))
  | .writeCmd w :: rest =>
    match decodeCommand w with
    | .ok i => .instr i (s.setEvents rest)
    | .reject _ => .other (.next (illegalCommand w (s.setEvents rest)))

/-- The next move inside `LZ.DECOMP`. -/
def fetchToken (s : State) : Fetched :=
  match lzFetch s with
  | .done => .other (.next (lzFinish s))
  | .raise c info => .other (.next (lzAbort c info s))
  | .token t => .instr t.instr s

/-- The next move inside `GR.DEC`. -/
def fetchCode (s : State) : Fetched :=
  match grFetch s with
  | .done => .other (.next (endCommand s))
  | .raise c info => .other (.next (grAbort c info s))
  | .code c => .instr c.instr s

/-- What a step does in a state. -/
def fetch (s : State) : Fetched :=
  match s.phase with
  | .idle => fetchEvent s
  | .lzDecomp => fetchToken s
  | .grDec => fetchCode s

/-- A state in which the next move of a running `LZ.DECOMP` is the stream item in these bytes: `nbits` control bits
are left, the next one is 1, and the input goes on after the item. -/
def State.placeItem (s : State) (nbits : Nat) (bs : List Byte) : State :=
  ((((s.writeBytes .ibuf 0 bs).setX
    { s.x with inLen := BitVec.ofNat 32 bs.length }).setPhase .lzDecomp).setLz
    { ip := 0, op := 0, ctrl := 1#8, nbits := nbits })

/-- A state whose next move is the host's write of this word to `CMD`. -/
def State.placeCommand (s : State) (w : Word) : State :=
  (s.setPhase .idle).setEvents (.writeCmd w :: s.events)

end Sys2Proof.Machine
end

