-- ==== Sys2Proof/Machine/Step.lean ====
section
/-! DEFINITION. One step, and the placing of one instruction where the next step fetches it. -/

namespace Sys2Proof.Machine

/-- One step: the next pending event between commands (a command write runs the whole command, spec/00_scope.md
R10); inside a command, its next stream item. -/
def step (s : State) : Host.Outcome State Fault Refusal :=
  match fetch s with
  | .instr i t => exec i t
  | .other o => o

/-- The state with a table row's bits where `step` fetches its next instruction (assumption logs 6 and 15): a
32-bit word is the host's next write to `CMD`; 8 bits are the control byte, and 16 or 24 bits the match token, that a
running `LZ.DECOMP` comes to next. -/
def State.withFetchWord (s : State) (nbits w : Nat) : State :=
  match nbits with
  | 8 => s.placeItem 0 (bytesOf 3 (w % 2 ^ 8))
  | 16 => s.placeItem 1 (bytesOf 3 (w % 2 ^ 16))
  | 24 => s.placeItem 1 (bytesOf 3 w)
  | _ => s.placeCommand (BitVec.ofNat 32 w)

end Sys2Proof.Machine
end

