-- ==== Sys2Proof/Safety.lean ====
section
/-! DEFINITION. What counts as a safe state and a safe run, in the terms the statements use; and the plain list
functions that statements about whole streams compare the machine with. -/

namespace Sys2Proof.Machine

/-! ## The dictionary invariant (spec/10_state.md R31) -/

/-- The chain that starts at a link visits exactly these positions, in this order, and then ends at NIL. -/
def Lzc.IsChain (l : Lzc) : Option Pos → List Pos → Prop
  | start, [] => start = none
  | start, p :: rest => start = some p ∧ l.IsChain (l.getNext p) rest

/-- The invariant of R31. -/
structure Lzc.Ok (l : Lzc) : Prop where
  /-- I1, I2, I4: the chain of every key is finite, meets no position twice, and has exactly the positions with
  that key -/
  chains : ∀ h : BitVec 16, ∃ ch : List Pos, l.IsChain (l.getMap h) ch ∧ ch.Nodup ∧ ∀ p : Pos, p ∈ ch ↔ l.key p = h
  /-- I3: links are mutual -/
  mutualLinks : ∀ p q : Pos, l.getNext p = some q ↔ l.getPrev q = some p
  /-- I3: the head of a chain is the position without a newer one -/
  heads : ∀ p : Pos, l.getPrev p = none ↔ l.getMap (l.key p) = some p
  /-- I5: the mirror equation of R27 -/
  mirror : ∀ i : Nat, i < 272 → l.getText (4096 + i) = l.getText i

/-- The invariant of R31 for the live dictionary, and for the bank while it holds a snapshot. -/
def State.DictsOk (s : State) : Prop := s.lzc.Ok ∧ (s.snapValid = true → s.snap.Ok)

/-- Compressor and decompressor have seen the same history (spec/42_lz_decompress.md R177): equal windows, equal
cursors. -/
def InStep (l : Lzc) (d : Lzd) : Prop := (∀ p : Pos, d.get p = l.getText p.toNat) ∧ d.dr = l.cs

/-! ## States as the rules name them -/

/-- The reset state of LZC (R39), entry by entry. -/
structure Lzc.HoldsReset (l : Lzc) : Prop where
  /-- `CTEXT[0..4368]` is 0 -/
  text : ∀ i : Nat, i < 4369 → l.getText i = 0#8
  /-- `CMAP[0]` is 0 -/
  mapZero : l.getMap 0#16 = some 0#12
  /-- `CMAP[1..65535]` is NIL -/
  mapRest : ∀ h : BitVec 16, h ≠ 0#16 → l.getMap h = none
  /-- `CNEXT[p]` is `p+1` for `p` = 0..4094 -/
  nextBelow : ∀ p : Pos, p.toNat < 4095 → l.getNext p = some (p + 1#12)
  /-- `CNEXT[4095]` is NIL -/
  nextLast : l.getNext 4095#12 = none
  /-- `CPREV[0]` is NIL -/
  prevFirst : l.getPrev 0#12 = none
  /-- `CPREV[p]` is `p-1` for `p` = 1..4095 -/
  prevRest : ∀ p : Pos, p ≠ 0#12 → l.getPrev p = some (p - 1#12)
  /-- `CS` is 0 -/
  cursor : l.cs = 0#12

/-- The reset state of LZD (R39). -/
def Lzd.HoldsReset (d : Lzd) : Prop := (∀ p : Pos, d.get p = 0#8) ∧ d.dr = 0#12

/-- R39's table, but for the contents of the buffers and of the snapshot bank. -/
structure State.HoldsResetValues (s : State) : Prop where
  /-- `x[0..11]` are 0 -/
  registers : ∀ r : Reg, s.x.read r = 0#32
  /-- `ERR` is 0 -/
  err : s.err = 0#8
  /-- `ERR_INFO` is 0 -/
  errInfo : s.errInfo = 0#32
  /-- LZC -/
  compressor : s.lzc.HoldsReset
  /-- `SNAP_VALID` is 0 -/
  snapValid : s.snapValid = false
  /-- LZD -/
  decompressor : s.lzd.HoldsReset

/-- No command is running and no transient value is left (R25, R37). -/
def State.Idle (s : State) : Prop := s.phase = .idle ∧ s.lz = LzCursor.none ∧ s.gr = GrCursor.none

/-- The fault registers hold a code and a detail that spec/60_exceptions.md R251 gives. -/
def State.ErrorsOk (s : State) : Prop :=
  s.err.toNat ≤ 8 ∧ (s.err = 0#8 → s.errInfo = 0#32) ∧ (s.err = 2#8 → s.errInfo.toNat ≤ 6) ∧
  (s.err = 5#8 → s.errInfo = 0#32)

/-- A fault's detail is one that R251 gives for its code, as far as the capacities bound it: `op` before a token that
does not fit (a token yields at most 273 bytes); `ip` past a control byte and inside the input; the word of an illegal
command; a fetch that starts in the pool or right after it; an accumulator outside the table, of 16 bits (R199); a
pixel word. -/
structure State.DetailsOk (s : State) : Prop where
  /-- `ILLEGAL_CMD` -/
  illegalCmd : s.err = 1#8 → ∀ i : Instr, decodeCommand s.errInfo ≠ .ok i
  /-- `OUT_OVERFLOW` -/
  outOverflow : s.err = 3#8 → s.errInfo.toNat ≤ s.cfg.obufCap ∧ s.cfg.obufCap < s.errInfo.toNat + 273
  /-- `LZ_TRUNCATED` -/
  lzTruncated : s.err = 4#8 → 1 ≤ s.errInfo.toNat ∧ s.errInfo.toNat ≤ s.cfg.ibufCap
  /-- `GR_INDEX_RANGE` -/
  grIndexRange : s.err = 6#8 → s.errInfo.toNat ≤ s.cfg.poolCap
  /-- `GR_TABLE_RANGE` -/
  grTableRange : s.err = 7#8 → 1024 ≤ s.errInfo.toNat ∧ s.errInfo.toNat < 2 ^ 16
  /-- `GR_OVERRUN` -/
  grOverrun : s.err = 8#8 → s.errInfo.toNat < s.cfg.pixCap

/-- The transient values of a running command stay in their ranges (R25, R37, R172, R192, R193, R199). -/
structure State.CommandOk (s : State) : Prop where
  /-- `LZ.DECOMP`: both cursors are inside their buffers, and a group begins after its control byte -/
  lzDecomp : s.phase = .lzDecomp → s.inLen ≤ s.cfg.ibufCap ∧ s.lz.ip ≤ s.inLen ∧ s.lz.op ≤ s.cfg.obufCap ∧
    (s.lz.nbits ≠ 0 → 1 ≤ s.lz.ip)
  /-- `GR.DEC`: pixels and bit cursor are inside their buffers, and the accumulator has 16 bits -/
  grDec : s.phase = .grDec → s.poolLen ≤ s.cfg.poolCap ∧ s.gr.cur.bp < s.poolLen ∧ s.gr.cur.bit < 8 ∧
    s.gr.i + s.gr.run ≤ s.gr.lim ∧ s.gr.lim ≤ s.cfg.pixCap ∧ s.gr.a < 2 ^ 16

/-- The state after a data fault of `LZ.DECOMP` (R255, R256 (b)): the fault registers; the ring, its cursor, `OBUF` and
`OUT_LEN` left open; the command over; nothing else changed but the model's count of draws. -/
def LzFaulted (s t : State) (code : Byte) (info : Nat) : Prop :=
  t = ((((((endCommand s).setLzd t.lzd).setObuf t.obuf).setOutLen t.x.outLen).setErr code).setErrInfo
    (BitVec.ofNat 32 info)).setDraws (s.draws + 1)

/-- The byte of `PIX` belongs to the lanes a `GR.DEC` may write: words `PIX_BASE .. PIX_BASE+PIX_COUNT-1`, for
`FIRST` other than 1 their lane `CHAN` only (R200, R256 (c)). -/
def State.targets (s : State) (a : Nat) : Prop :=
  4 * s.pixBase ≤ a ∧ a < 4 * (s.pixBase + s.pixCount) ∧ (s.x.first = 1#32 ∨ a % 4 = s.x.chan.toNat)

/-- The state after a data fault of `GR.DEC` (R255, R256 (c)): the fault registers; the target lanes left open; the
command over; nothing else changed but the model's count of draws. -/
def GrFaulted (s t : State) (code : Byte) (info : Nat) : Prop :=
  t = ((((endCommand s).setPix t.pix).setErr code).setErrInfo (BitVec.ofNat 32 info)).setDraws (s.draws + 1) ∧
  ∀ a : Nat, ¬s.targets a → t.readByte .pix a = s.readByte .pix a

/-! ## Matches and tokens of a compression (spec/40_lz_dictionary.md R134 to R137, spec/41_lz_compress.md R151) -/

/-- Window position `p` gives a match of `n` bytes for the input: at least the two bytes of the key, inside the
lookahead, short of the cursor, and equal byte for byte (R135, R136). -/
def Lzc.Usable (l : Lzc) (inp : List Byte) (p : Pos) (n : Nat) : Prop :=
  2 ≤ n ∧ n ≤ 273 ∧ n ≤ inp.length - 1 ∧ n ≤ (l.cs - p).toNat ∧
  ∀ t : Nat, t < n → inp[t]? = some (l.getText (p + BitVec.ofNat 12 t).toNat)

/-- The tokens of an input of at most `fuel` bytes, one after another: a match when the finder gives at least 3, else
a literal; the dictionary takes the bytes before the next search (R151). -/
def Lzc.tokens : Nat → Lzc → List Byte → List LzToken
  | 0, _, _ => []
  | _ + 1, _, [] => []
  | fuel + 1, l, c :: rest =>
    if 3 ≤ (l.findMatch (c :: rest)).1 then
      matchToken (l.findMatch (c :: rest)).1 (l.findMatch (c :: rest)).2 ::
        Lzc.tokens fuel (l.putBytes ((c :: rest).take (l.findMatch (c :: rest)).1))
          ((c :: rest).drop (l.findMatch (c :: rest)).1)
    else .lit c :: Lzc.tokens fuel (l.putByte c) rest

/-! ## Canonical data -/

/-- Every array of a dictionary is in its canonical form, with its number of entries (spec/10_state.md R27 to R29). -/
def Lzc.Canonical (l : Lzc) : Prop :=
  tabCanon resetText 4369 l.text ∧ tabCanon resetMap 65536 l.map ∧
  tabCanon resetPrev 4096 l.prev ∧ tabCanon resetNext 4096 l.next

/-- The whole state is in canonical form: buffers, live dictionary, ring, and the bank while it holds a snapshot. -/
def State.Canonical (s : State) : Prop :=
  (∀ sp : Space, (s.mem sp).wf) ∧ s.lzc.Canonical ∧ tabCanon resetText 4096 s.lzd.text ∧
  (s.snapValid = true → s.snap.Canonical)

/-! ## Nothing outside the capacities (spec/20_memory.md R60, R70) -/

/-- Every byte ever written lies below its space's capacity. -/
def State.Inside (s : State) : Prop :=
  ∀ sp : Space, ∀ e ∈ (s.mem sp).cells, e.1 < s.capacity sp

/-- Inside a `GR.DEC` the pixels still wanted lie below `PIX_CAP`, and the operand checks have passed (R192, R254). -/
def State.GrInside (s : State) : Prop :=
  s.phase = .grDec → s.gr.lim ≤ s.cfg.pixCap ∧ s.gr.i + s.gr.run ≤ s.gr.lim ∧
    s.pixBase + s.pixCount ≤ s.cfg.pixCap ∧ s.x.chan.toNat ≤ 3

/-- The event addresses no buffer index outside its space. -/
def Event.inRange (s : State) : Event → Bool
  | .powerOn => true
  | .writeCmd _ => true
  | .access (.writeByte sp i _) => decide (i < s.capacity sp)
  | .access (.readByte sp i) => decide (i < s.capacity sp)
  | .access (.writePix i _) => decide (i < s.cfg.pixCap)
  | .access (.readPix i) => decide (i < s.cfg.pixCap)
  | .access (.writeReg _ _) => true
  | .access (.readReg _) => true
  | .access .readCmd => true
  | .access (.writeErr _) => true
  | .access .readErr => true
  | .access (.writeErrInfo _) => true
  | .access .readErrInfo => true

/-- A safe outcome: the machine goes on. -/
def GoesOn (o : Host.Outcome State Fault Refusal) : Prop := ∃ t : State, o = .next t

/-! ## Token streams as lists (spec/30_encoding.md R94, spec/42_lz_decompress.md R174, R175) -/

/-- The byte-serial copy of `n` bytes from position `p`, on the ring alone: the ring after it, and the bytes. -/
def Lzd.copy : Nat → Pos → Lzd → Lzd × List Byte
  | 0, _, d => (d, [])
  | n + 1, p, d =>
    ((Lzd.copy n (p + 1#12) (d.push (d.get p))).1, d.get p :: (Lzd.copy n (p + 1#12) (d.push (d.get p))).2)

/-- What one token does to the ring, and the bytes it yields. -/
def Lzd.item (d : Lzd) : LzToken → Lzd × List Byte
  | .ctrl _ => (d, [])
  | .lit c => (d.push c, [c])
  | .short p lc => Lzd.copy (lc.toNat + 3) p d
  | .long p e => Lzd.copy (18 + e.toNat) p d

/-- What a list of tokens does to the ring, and the bytes it yields. -/
def Lzd.items (d : Lzd) : List LzToken → Lzd × List Byte
  | [] => (d, [])
  | t :: rest => (((d.item t).1.items rest).1, (d.item t).2 ++ ((d.item t).1.items rest).2)

/-- A token of a group: no control byte, and a short match only with length code 0..14 (R95 to R98). -/
def tokenProper : LzToken → Bool
  | .ctrl _ => false
  | .lit _ => true
  | .short _ lc => decide (lc ≠ 15#4)
  | .long _ _ => true

/-- A token's control bit as a number. -/
def tokenKind : LzToken → Nat
  | .ctrl _ => 0
  | .lit _ => 0
  | .short _ _ => 1
  | .long _ _ => 1

/-- The control bits of a group as a number, the first token's the lowest. -/
def controlBits : List LzToken → Nat
  | [] => 0
  | t :: rest => tokenKind t + 2 * controlBits rest

/-- A group's control byte: its tokens' control bits, and above them, in a group of fewer than eight, the low bits of
`spare` (spec/42_lz_decompress.md R173: a decoder ignores them). -/
def controlByte (spare : Nat) (group : List LzToken) : Byte :=
  BitVec.ofNat 8 (controlBits group + 2 ^ group.length * spare)

/-- A token list as a stream of groups of eight (R94), in `fuel` groups at most, with the given unused control bits
in the last group. -/
def streamWithSpare (spare : Nat) : Nat → List LzToken → List Byte
  | 0, _ => []
  | _ + 1, [] => []
  | fuel + 1, t :: ts =>
    controlByte spare ((t :: ts).take 8) ::
      (((t :: ts).take 8).flatMap LzToken.bytes ++ streamWithSpare spare fuel ((t :: ts).drop 8))

/-- A token list as the stream that a compression writes: unused control bits are 0 (R151). -/
def streamBytes (fuel : Nat) (ts : List LzToken) : List Byte := streamWithSpare 0 fuel ts

/-! ## Bit pools as lists (spec/30_encoding.md R102 to R105) -/

/-- A run of residuals: zeros, or raw values. -/
inductive GrRun where
  /-- so many zero residuals -/
  | zeros (n : Nat)
  /-- non-zero residuals by their raw values -/
  | values (vs : List Nat)
  deriving DecidableEq, Repr

/-- How many residuals a run has. -/
def GrRun.count : GrRun → Nat
  | .zeros n => n
  | .values vs => vs.length

/-- Where an encoder stands: the bit position in the pool, and the decoder's context. -/
structure GrContext where
  /-- bits written so far, the polarity bit among them -/
  pos : Nat
  /-- context index -/
  n : Nat
  /-- accumulator -/
  a : Nat
  deriving DecidableEq, Repr

/-- The context after a raw value whose code has `len` bits (spec/43_golomb.md R199). -/
def GrContext.after (c : GrContext) (v len : Nat) : GrContext :=
  if c.n = 0 then ⟨c.pos + len, 3, (c.a + v / 2) / 2⟩ else ⟨c.pos + len, c.n - 1, c.a + v / 2⟩

/-- The code of a raw value: the normal form if its unary part ends inside the window, else the escape (R104,
R105). -/
def residualCode (bit k v : Nat) : GrCode :=
  if v / 2 ^ k ≤ 31 - bit then .golomb (v / 2 ^ k) (v % 2 ^ k) else .golombx (BitVec.ofNat 8 (v / 2 ^ k)) (v % 2 ^ k)

/-- The bits of a raw value in a context. -/
def GrContext.bitsOf (c : GrContext) (v : Nat) : List Bool :=
  (residualCode (c.pos % 8) (gbl c.a c.n) v).bits (c.pos % 8) (gbl c.a c.n)

/-- A raw value has a code in a context: the accumulator is inside the table and the quotient fits its byte. -/
def GrContext.encodes (c : GrContext) (v : Nat) : Bool :=
  decide (c.a < 1024) && decide (v / 2 ^ gbl c.a c.n ≤ 255)

/-- The bits of raw values one after another, and the context after them. -/
def GrContext.encodeValues (c : GrContext) : List Nat → List Bool × GrContext
  | [] => ([], c)
  | v :: vs =>
    (c.bitsOf v ++ ((c.after v (c.bitsOf v).length).encodeValues vs).1,
      ((c.after v (c.bitsOf v).length).encodeValues vs).2)

/-- Every raw value has a code where it stands. -/
def GrContext.encodesAll (c : GrContext) : List Nat → Bool
  | [] => true
  | v :: vs => c.encodes v && (c.after v (c.bitsOf v).length).encodesAll vs

/-- The `GAMMA` bits of a count (R103). -/
def countBits (n : Nat) : List Bool := GrCode.bits 0 0 (.gamma (Nat.log2 n) (n - 2 ^ Nat.log2 n))

/-- The context after a run's count code. -/
def GrContext.afterCount (c : GrContext) (n : Nat) : GrContext := { c with pos := c.pos + (countBits n).length }

/-- The bits of a run, and the context after it (R102). -/
def GrContext.encodeRun (c : GrContext) : GrRun → List Bool × GrContext
  | .zeros n => (countBits n, c.afterCount n)
  | .values vs =>
    (countBits vs.length ++ ((c.afterCount vs.length).encodeValues vs).1,
      ((c.afterCount vs.length).encodeValues vs).2)

/-- The bits of runs one after another. -/
def GrContext.encodeRuns (c : GrContext) : List GrRun → List Bool
  | [] => []
  | r :: rs => (c.encodeRun r).1 ++ (c.encodeRun r).2.encodeRuns rs

/-- Every run has codes where it stands. -/
def GrContext.encodesRuns (c : GrContext) : List GrRun → Bool
  | [] => true
  | .zeros n :: rs => (c.encodeRun (.zeros n)).2.encodesRuns rs
  | .values vs :: rs =>
    (c.afterCount vs.length).encodesAll vs && (c.encodeRun (.values vs)).2.encodesRuns rs

/-- The runs alternate in kind, the first a zero run or not as said, and none is empty (R102). -/
def alternates : Bool → List GrRun → Bool
  | _, [] => true
  | true, .zeros n :: rs => decide (0 < n) && alternates false rs
  | false, .values vs :: rs => decide (0 < vs.length) && alternates true rs
  | true, .values _ :: _ => false
  | false, .zeros _ :: _ => false

/-- The residuals of runs as bytes (spec/43_golomb.md R195, R198). -/
def residuals (evenPositive : Bool) : List GrRun → List Byte
  | [] => []
  | .zeros n :: rs => List.replicate n 0#8 ++ residuals evenPositive rs
  | .values vs :: rs => vs.map (signMap evenPositive) ++ residuals evenPositive rs

/-- The whole coded pool: the polarity bit, then the runs (R102). The first run is a non-zero run iff the polarity
bit is 1. -/
def poolBits (polarity : Bool) (runs : List GrRun) : List Bool :=
  polarity :: GrContext.encodeRuns ⟨1, 3, 0⟩ runs

/-- Bit `j` of the bit stream in a byte array (spec/00_scope.md R7). -/
def streamBit (pool : Nat → Byte) (j : Nat) : Bool := (pool (j / 8)).getLsbD (j % 8)

/-! ## Codes cut short by the end of the pool, in stream bits (spec/43_golomb.md R193 to R197, R201) -/

/-- Bit `j` of the stream from a bit cursor on (R193). -/
def cursorBit (pool : Nat → Byte) (c : BitCursor) (j : Nat) : Bool := streamBit pool (8 * c.bp + c.bit + j)

/-- `z` zero bits stand at a cursor, and then a 1. -/
def ZerosThenOne (pool : Nat → Byte) (c : BitCursor) (z : Nat) : Prop :=
  (∀ j : Nat, j < z → cursorBit pool c j = false) ∧ cursorBit pool c z = true

/-- Stepping over zeros twelve at a time, the window after `12 * j` of them is the first not inside the pool; it starts
at byte `bp`. -/
def SkipMisses (pool : Nat → Byte) (len : Nat) (c : BitCursor) (j bp : Nat) : Prop :=
  (∀ m : Nat, m < 12 * j → cursorBit pool c m = false) ∧ (0 < j → (c.advance (12 * (j - 1))).bp + 4 ≤ len) ∧
  bp = (c.advance (12 * j)).bp ∧ len < bp + 4

/-- The window in which the 1 after `z` zeros is found lies inside the pool. -/
def FindsOne (len : Nat) (c : BitCursor) (z : Nat) : Prop := (c.advance (12 * (z / 12))).bp + 4 ≤ len

/-- Reading a run length, the fetch at byte `bp` is the one not inside the pool (R194): a window before the 1 is found,
or the suffix window, which is fetched even for no suffix. -/
def GammaMisses (pool : Nat → Byte) (len : Nat) (c : BitCursor) (bp : Nat) : Prop :=
  (∃ j : Nat, SkipMisses pool len c j bp) ∨
  ∃ z : Nat, z ≤ 24 ∧ ZerosThenOne pool c z ∧ FindsOne len c z ∧ bp = (c.advance (z + 1)).bp ∧ len < bp + 4

/-- Reading a residual, the fetch at byte `bp` is the one not inside the pool (R196, R197): the first window; a later one
when the first is not all zero; or, when it is, the quotient byte after it or the window after that byte. -/
def ValueMisses (pool : Nat → Byte) (len : Nat) (c : BitCursor) (bp : Nat) : Prop :=
  SkipMisses pool len c 0 bp ∨
  (∃ j m : Nat, 0 < j ∧ m < 32 - c.bit ∧ cursorBit pool c m = true ∧ SkipMisses pool len c j bp) ∨
  ((∀ m : Nat, m < 32 - c.bit → cursorBit pool c m = false) ∧ c.bp + 4 ≤ len ∧
    ((bp = c.bp + 4 ∧ len < c.bp + 5) ∨ (bp = c.bp + 5 ∧ c.bp + 5 ≤ len ∧ len < c.bp + 9)))

/-! ## Word-level forms of the packed kernels (spec/44_packed.md R225) -/

/-- `GT(a, b)` of R225. -/
def gtWord (a b : Word) : Word :=
  ((((((a &&& ~~~b) + (((a ^^^ ~~~b) >>> 1) &&& 0x7F7F7F7F#32)) &&& 0x80808080#32) >>> 7) + 0x7F7F7F7F#32) ^^^
    0x7F7F7F7F#32)

/-- `ADD(a, b)` of R225, its unbalanced parenthesis read as closing before the mask (assumption log 20). -/
def addWord (a b : Word) : Word :=
  a + b - ((((a &&& b) <<< 1) + ((a ^^^ b) &&& 0xFEFEFEFE#32)) &&& 0x01010100#32)

/-- `AVG(a, b)` of R225. -/
def avgWord (a b : Word) : Word :=
  (a &&& b) + (((a ^^^ b) &&& 0xFEFEFEFE#32) >>> 1) + ((a ^^^ b) &&& 0x01010101#32)

/-- `MED(a, b, c)` of R225, from the per-lane minimum and maximum it computes first. -/
def medWordFrom (lo hi c : Word) : Word :=
  (gtWord c hi &&& lo) ||| (gtWord lo c &&& hi) |||
    ((hi &&& ~~~(gtWord c hi ||| gtWord lo c)) - (c &&& ~~~(gtWord c hi ||| gtWord lo c)) +
      (lo &&& ~~~(gtWord c hi ||| gtWord lo c)))

/-- `MED(a, b, c)` of R225. -/
def medWord (a b c : Word) : Word :=
  medWordFrom (((a ^^^ b) &&& gtWord a b) ^^^ a) (((a ^^^ b) &&& gtWord a b) ^^^ b) c

end Sys2Proof.Machine
end

