-- ==== Sys2Proof/Certificates/Slice0/Obligations.lean ====
section
/-! DEFINITION. The statements for the provers, from the numbered rules of spec/. Each docstring names the rule a
statement formalises; where a statement rests on a choice of the model it says so. -/

section
open Sys2Proof Sys2Proof.Machine

/-! ## Encodings -/

/-- R91, R92: a command word decodes to a command exactly when it is one of the fourteen words, the opcode in bits 7:0
and zeros above. -/
def Obligations.CommandWordsDecode : Prop :=
  ∀ (w : Word) (i : Instr), decodeCommand w = .ok i ↔ (w.toNat, i) ∈
    [(0x01, Instr.sysReset), (0x10, .lzCreset), (0x11, .lzComp), (0x12, .lzStore), (0x13, .lzRestore),
     (0x14, .lzCblk), (0x20, .lzDreset), (0x21, .lzPrime), (0x22, .lzDecomp), (0x30, .grDec), (0x40, .pkGt),
     (0x41, .pkAdd), (0x42, .pkAvg), (0x43, .pkMed)]

/-- R95 to R101: encoding and decoding agree, in both directions, for every command, every control byte and every
token; what follows a token in the stream is left alone. -/
def Obligations.EncodeDecodeAgree : Prop :=
  (∀ (i : Instr) (w : Word) (bit k : Nat), encode bit k i = .command w ↔ decodeCommand w = .ok i) ∧
  (∀ (f : Byte) (rest : List Byte) (bit k : Nat),
    encode bit k (.ctrl f) = .bytes [f] ∧ decodeControl (f :: rest) = .ok (.ctrl f, rest)) ∧
  (∀ (t : LzToken) (rest : List Byte) (bit k : Nat), tokenProper t = true →
    ∃ bs : List Byte, encode bit k t.instr = .bytes bs ∧
      decodeToken (decide (tokenKind t = 1)) (bs ++ rest) = .ok (t, rest)) ∧
  (∀ (isMatch : Bool) (bs rest : List Byte) (t : LzToken), decodeToken isMatch bs = .ok (t, rest) →
    tokenProper t = true ∧ isMatch = decide (tokenKind t = 1) ∧ bs = t.bytes ++ rest)

/-- R103, R194: a run-length code written in the pool at a cursor, with four readable bytes from the byte where it ends,
is decoded to itself, and the cursor moves past it. -/
def Obligations.GammaCodesRoundTrip : Prop :=
  ∀ (pool : Nat → Byte) (len : Nat) (c : BitCursor) (z k : Nat), c.bit < 8 → z ≤ 24 → k < 2 ^ z →
    (∀ j : Nat, j < 2 * z + 1 →
      (GrCode.bits 0 0 (.gamma z k))[j]? = some (streamBit pool (8 * c.bp + c.bit + j))) →
    (8 * c.bp + c.bit + (2 * z + 1)) / 8 + 4 ≤ len →
    gammaAt pool len c = .ok (.gamma z k, c.advance (2 * z + 1))

/-- R104, R105, R196, R197: a residual code, normal or escape, written in the pool at a cursor, with four readable bytes
from the byte where it ends, is decoded to itself, and the cursor moves past it. -/
def Obligations.ResidualCodesRoundTrip : Prop :=
  ∀ (pool : Nat → Byte) (len k r : Nat) (c : BitCursor), c.bit < 8 → k ≤ 8 → r < 2 ^ k →
    (∀ q : Nat, q ≤ 31 - c.bit →
      (∀ j : Nat, j < q + 1 + k →
        (GrCode.bits c.bit k (.golomb q r))[j]? = some (streamBit pool (8 * c.bp + c.bit + j))) →
      (8 * c.bp + c.bit + (q + 1 + k)) / 8 + 4 ≤ len →
      valueAt pool len k c = .ok (.golomb q r, c.advance (q + 1 + k))) ∧
    (∀ q : Byte,
      (∀ j : Nat, j < 32 - c.bit + 8 + k →
        (GrCode.bits c.bit k (.golombx q r))[j]? = some (streamBit pool (8 * c.bp + c.bit + j))) →
      (8 * c.bp + c.bit + (32 - c.bit + 8 + k)) / 8 + 4 ≤ len →
      valueAt pool len k c = .ok (.golombx q r, BitCursor.advance ⟨c.bp + 5, 0⟩ k))

/-- R92, R95 to R99, R103 to R105: a few words, bytes and bit strings written out from the spec's encodings decode to
the instructions they stand for. -/
def Obligations.SpecWordsDecode : Prop :=
  decodeCommand 0x00000001#32 = .ok .sysReset ∧ decodeCommand 0x00000022#32 = .ok .lzDecomp ∧
  decodeCommand 0x00000030#32 = .ok .grDec ∧ decodeCommand 0x00000043#32 = .ok .pkMed ∧
  decodeControl [0x18#8] = .ok (.ctrl 0x18#8, []) ∧
  decodeToken false [0x61#8] = .ok (.lit 0x61#8, []) ∧
  decodeToken true [0x50#8, 0x84#8] = .ok (.short 0x450#12 8#4, []) ∧
  decodeToken true [0x01#8, 0xF0#8, 0xFF#8] = .ok (.long 0x001#12 0xFF#8, []) ∧
  gammaAt (fun i => if i = 0 then 0b00001100#8 else 0#8) 8 ⟨0, 1⟩ = .ok (.gamma 1 1, ⟨0, 4⟩) ∧
  valueAt (fun i => if i = 0 then 0b00000110#8 else 0#8) 8 2 ⟨0, 0⟩ = .ok (.golomb 1 1, ⟨0, 4⟩)

/-- R190, R191: the leading-zero table, and the Golomb bit-length table in its threshold form, for each context. -/
def Obligations.GolombTables : Prop :=
  (lzt 0#12 = 0 ∧ ∀ w : BitVec 12, w ≠ 0#12 →
    1 ≤ lzt w ∧ lzt w ≤ 12 ∧ w.getLsbD (lzt w - 1) = true ∧ ∀ j : Nat, j < lzt w - 1 → w.getLsbD j = false) ∧
  ∀ a : Nat, a < 1024 →
    gbl a 0 = ([3, 10, 25, 52, 115, 223, 446, 894].filter (fun t => decide (t ≤ a))).length ∧
    gbl a 1 = ([3, 8, 21, 45, 96, 191, 383, 767].filter (fun t => decide (t ≤ a))).length ∧
    gbl a 2 = ([2, 7, 19, 40, 79, 165, 320, 640].filter (fun t => decide (t ≤ a))).length ∧
    gbl a 3 = ([2, 5, 14, 32, 65, 126, 255, 513].filter (fun t => decide (t ≤ a))).length

/-! ## The step -/

/-- R22, R241: the host's write of a command's word runs that command, once, on the state as it stands; the write is
used up. (That pending host actions stand in State is the model's choice, assumption log 6.) -/
def Obligations.StepRunsCommand : Prop :=
  ∀ (s : State) (w : Word) (rest : List Event) (i : Instr), s.phase = .idle → s.events = .writeCmd w :: rest →
    decodeCommand w = .ok i → step s = exec i (s.setEvents rest)

/-- R101, R172, R173: inside `LZ.DECOMP` a step runs the item whose bytes stand at the stream cursor: a control byte when
the group's bits are used up, else a literal or a match by the lowest control bit, the match's length by the high nibble
of its second byte. (That an item is a step of its own is the model's choice, assumption logs 4 and 5.) -/
def Obligations.StepRunsStreamToken : Prop :=
  ∀ s : State, s.phase = .lzDecomp →
    (s.lz.ip < s.inLen → s.lz.nbits = 0 → step s = exec (.ctrl (s.readByte .ibuf s.lz.ip)) s) ∧
    (s.lz.ip < s.inLen → s.lz.nbits ≠ 0 → s.lz.ctrl.getLsbD 0 = false →
      step s = exec (.lit (s.readByte .ibuf s.lz.ip)) s) ∧
    (s.lz.ip + 2 ≤ s.inLen → s.lz.nbits ≠ 0 → s.lz.ctrl.getLsbD 0 = true →
      (s.readByte .ibuf (s.lz.ip + 1)).extractLsb' 4 4 ≠ 15#4 →
      step s = exec (.lzMatch
        ((s.readByte .ibuf (s.lz.ip + 1)).extractLsb' 0 4 ++ s.readByte .ibuf s.lz.ip)
        ((s.readByte .ibuf (s.lz.ip + 1)).extractLsb' 4 4)) s) ∧
    (s.lz.ip + 3 ≤ s.inLen → s.lz.nbits ≠ 0 → s.lz.ctrl.getLsbD 0 = true →
      (s.readByte .ibuf (s.lz.ip + 1)).extractLsb' 4 4 = 15#4 →
      step s = exec (.lzMatchx
        ((s.readByte .ibuf (s.lz.ip + 1)).extractLsb' 0 4 ++ s.readByte .ibuf s.lz.ip)
        (s.readByte .ibuf (s.lz.ip + 2))) s)

/-- R192, R194, R196: inside `GR.DEC` a step runs the code that the pool holds at the bit cursor: a run length between
runs, a residual with the parameter in force inside a non-zero run. (Model's choice: assumption logs 4 and 5.) -/
def Obligations.StepRunsGolombCode : Prop :=
  ∀ (s : State) (code : GrCode) (next : BitCursor), s.phase = .grDec →
    (s.gr.run = 0 → s.gr.i < s.gr.lim → gammaAt s.poolByte s.poolLen s.gr.cur = .ok (code, next) →
      step s = exec code.instr s) ∧
    (s.gr.run ≠ 0 → s.gr.a < 1024 →
      valueAt s.poolByte s.poolLen (gbl s.gr.a s.gr.n) s.gr.cur = .ok (code, next) → step s = exec code.instr s)

/-- R93: a word that is none of the fourteen commands raises `ILLEGAL_CMD` with the word as detail and changes nothing
else; while `ERR` is not 0 it is ignored. -/
def Obligations.IllegalCommandFaults : Prop :=
  ∀ (s : State) (w : Word) (rest : List Event), s.phase = .idle → s.events = .writeCmd w :: rest →
    w.toNat ∉ [0x01, 0x10, 0x11, 0x12, 0x13, 0x14, 0x20, 0x21, 0x22, 0x30, 0x40, 0x41, 0x42, 0x43] →
    (s.err = 0#8 → step s = .next (((s.setEvents rest).setErr 1#8).setErrInfo w)) ∧
    (s.err ≠ 0#8 → step s = .next (s.setEvents rest))

/-- R241, R242: while `ERR` is not 0, a write to `CMD` of anything but 0x00000001 has no effect, legal or not, and every
command but `SYS.RESET` leaves the state as it is. (The second clause ranges over the stream items and codes too, whose
gate on `ERR` is the model's choice, assumption logs 5 and 23.) -/
def Obligations.RefusedWhileFaulted : Prop :=
  (∀ (s : State) (w : Word) (rest : List Event), s.err ≠ 0#8 → s.phase = .idle →
    s.events = .writeCmd w :: rest → w ≠ 0x00000001#32 → step s = .next (s.setEvents rest)) ∧
  (∀ (s : State) (i : Instr), s.err ≠ 0#8 → i ≠ .sysReset → exec i s = .next s)

/-- R23, R257: between commands a non-zero `ERR` is changed only by `SYS.RESET` and power-on, and by them to 0. -/
def Obligations.FaultIsSticky : Prop :=
  ∀ s t : State, s.phase = .idle → s.err ≠ 0#8 → step s = .next t → t.err ≠ s.err →
    t.err = 0#8 ∧ ∃ rest : List Event,
      s.events = .powerOn :: rest ∨ s.events = .writeCmd 0x00000001#32 :: rest

/-- R251: every step keeps the codes and details of the fault table. In any state: no code above 8, no detail without a
fault, a `BAD_OPERAND` detail of at most 6, a `NO_SNAPSHOT` detail of 0. With the transient values of a running command
(if one runs) in their ranges, which every step keeps too: the details of the other six codes, each as far as the
capacities bound it. -/
def Obligations.StepKeepsErrorCodes : Prop :=
  ∀ s t : State, step s = .next t →
    (s.ErrorsOk → t.ErrorsOk) ∧
    (s.cfg.Valid → s.CommandOk → s.DetailsOk → t.CommandOk ∧ t.DetailsOk)

/-- R251: which instructions can raise which fault. (The stream items and codes raise the data faults of the command
they belong to; that they are instructions of their own is the model's choice, assumption log 5.) -/
def Obligations.FaultsRaisedOnlyBy : Prop :=
  ∀ (i : Instr) (s t : State), s.err = 0#8 → exec i s = .next t →
    t.err = 0#8 ∨
    (t.err = 2#8 ∧ i ∈ [Instr.lzComp, .lzCblk, .lzDecomp, .grDec]) ∨
    (t.err = 3#8 ∧ (i = .lzDecomp ∨ (∃ c, i = .lit c) ∨ (∃ p lc, i = .lzMatch p lc) ∨ ∃ p e, i = .lzMatchx p e)) ∨
    (t.err = 4#8 ∧ (i = .lzDecomp ∨ ∃ f, i = .ctrl f)) ∨
    (t.err = 5#8 ∧ i = .lzRestore) ∨
    (t.err = 6#8 ∧ i = .grDec) ∨
    (t.err = 7#8 ∧ (i = .grDec ∨ (∃ q r, i = .golomb q r) ∨ ∃ q r, i = .golombx q r)) ∨
    (t.err = 8#8 ∧ (i = .grDec ∨ ∃ z k, i = .gamma z k))

/-- R10, R255: the machine always goes on, but for a host access at an index outside its buffer, which the spec gives
no meaning to (the model's choice, assumption log 16); no instruction ever stops it. -/
def Obligations.StepStopsOnlyOutsideBuffers : Prop :=
  (∀ (i : Instr) (s : State), GoesOn (exec i s)) ∧
  ∀ s : State, GoesOn (step s) ↔
    ¬(s.phase = .idle ∧ ∃ (e : Event) (rest : List Event), s.events = e :: rest ∧ e.inRange s = false)

/-- R6, R198: the configuration is fixed for the life of an instance. (That State carries it is assumption log 2.) -/
def Obligations.StepKeepsConfiguration : Prop := ∀ s t : State, step s = .next t → t.cfg = s.cfg

/-- R25, R37, R291: every command terminates, and leaves no transient value behind: from a state between commands every
step leads to one. -/
def Obligations.StepKeepsIdle : Prop := ∀ s t : State, s.Idle → step s = .next t → t.Idle

/-- R280, R281: power-on leads to the reset state; every byte of the buffers is unspecified, the value of a fresh draw
(assumption logs 7 and 18), and the configuration and what is still pending stay. -/
def Obligations.PowerOnResets : Prop :=
  ∀ (s : State) (rest : List Event), s.phase = .idle → s.events = .powerOn :: rest →
    ∃ t : State, step s = .next t ∧ t.HoldsResetValues ∧ t.Idle ∧ t.cfg = s.cfg ∧ t.events = rest ∧
      ∀ (sp : Space) (a : Nat), t.readByte sp a = Config.freeByte sp s.draws a

/-! ## Reset and the host's registers and buffers -/

/-- R39, R281: the reset state holds the values of R39's table; no command runs, and the capacities are in R6's
ranges (any such capacities: assumption log 1). That the sign polarity is the default `true` there is the model's
choice (assumption log 3). -/
def Obligations.ResetLeaves : Prop :=
  State.reset.HoldsResetValues ∧ State.reset.Idle ∧ State.reset.cfg.Valid ∧
    State.reset.cfg.evenPositive = true

/-- R240: `SYS.RESET`, in any state, faulted or not, puts every item of R39's table at its value after reset; the
contents of the buffers and of the snapshot bank stay as they are (as do the configuration and the model's own bus,
pending events and draws, assumption log 24). -/
def Obligations.SysResetResets : Prop :=
  ∀ s : State, ∃ t : State, exec .sysReset s = .next t ∧ t.HoldsResetValues ∧ t.Idle ∧
    t.snap = s.snap ∧ t.ibuf = s.ibuf ∧ t.obuf = s.obuf ∧ t.pool = s.pool ∧ t.pix = s.pix ∧
    t.cfg = s.cfg ∧ t.events = s.events ∧ t.bus = s.bus ∧ t.draws = s.draws

/-- R21 to R24, R264 (h): between commands the host reads and writes every `x[i]`; `CMD` reads 0; `ERR` and `ERR_INFO`
can be read but not written; none of it touches anything else. (What a read gives stands in the model's own `bus`,
assumption log 17.) -/
def Obligations.HostRegisterAccess : Prop :=
  ∀ (s : State) (rest : List Event) (r : Reg) (v : Word), s.phase = .idle →
    (s.events = .access (.writeReg r v) :: rest →
      ∃ x : Regs, step s = .next ((s.setEvents rest).setX x) ∧ x.read r = v ∧
        ∀ q : Reg, q ≠ r → x.read q = s.x.read q) ∧
    (s.events = .access (.readReg r) :: rest → step s = .next ((s.setEvents rest).setBus (s.x.read r))) ∧
    (s.events = .access .readCmd :: rest → step s = .next ((s.setEvents rest).setBus 0#32)) ∧
    (s.events = .access (.writeErr v) :: rest → step s = .next (s.setEvents rest)) ∧
    (s.events = .access (.writeErrInfo v) :: rest → step s = .next (s.setEvents rest)) ∧
    (s.events = .access .readErr :: rest →
      ∃ b : Word, step s = .next ((s.setEvents rest).setBus b) ∧ b.toNat = s.err.toNat) ∧
    (s.events = .access .readErrInfo :: rest → step s = .next ((s.setEvents rest).setBus s.errInfo))

/-- R60, R64, R65: between commands the host reads and writes every index below a space's capacity; a write changes that
byte, or the four lanes of that `PIX` word, little-endian, and no other byte of any space and nothing else. (What a read
gives stands in the model's own `bus`, assumption log 17; `PIX` is seen through its byte form, assumption log 25.) -/
def Obligations.HostBufferAccess : Prop :=
  ∀ (s : State) (rest : List Event) (sp : Space) (i : Nat) (b : Byte) (v : Word), s.phase = .idle →
    (s.events = .access (.writeByte sp i b) :: rest → i < s.capacity sp →
      ∃ t : State, step s = .next t ∧ t = (s.setEvents rest).setMem sp (t.mem sp) ∧
        ∀ (sq : Space) (a : Nat), t.readByte sq a = if sq = sp ∧ a = i then b else s.readByte sq a) ∧
    (s.events = .access (.readByte sp i) :: rest → i < s.capacity sp →
      ∃ w : Word, step s = .next ((s.setEvents rest).setBus w) ∧ w.toNat = (s.readByte sp i).toNat) ∧
    (s.events = .access (.writePix i v) :: rest → i < s.cfg.pixCap →
      ∃ t : State, step s = .next t ∧ t = (s.setEvents rest).setPix t.pix ∧
        ∀ a : Nat, t.readByte .pix a =
          if a / 4 = i then v.extractLsb' (8 * (a % 4)) 8 else s.readByte .pix a) ∧
    (s.events = .access (.readPix i) :: rest → i < s.cfg.pixCap →
      ∃ w : Word, step s = .next ((s.setEvents rest).setBus w) ∧
        ∀ k : Nat, k < 4 → w.extractLsb' (8 * k) 8 = s.readByte .pix (4 * i + k))

/-! ## LZC -/

/-- R150, R170: `LZ.CRESET` leaves exactly the reset state of LZC and no valid snapshot, `LZ.DRESET` that of LZD; neither
changes anything else. -/
def Obligations.ContextResets : Prop :=
  ∀ s : State, s.err = 0#8 →
    (∃ t : State, exec .lzCreset s = .next t ∧ t.lzc.HoldsReset ∧ t = (s.setLzc t.lzc).setSnapValid false) ∧
    (∃ t : State, exec .lzDreset s = .next t ∧ t.lzd.HoldsReset ∧ t = s.setLzd t.lzd)

/-- R39, R150: the construction that R150 gives, inserts for positions 4095 down to 0 into cleared arrays, ends in the
reset state of LZC. (The model sets that state directly, assumption log 13.) -/
def Obligations.InsertsBuildResetDictionary : Prop := (Lzc.insertDown 4096 Lzc.cleared).HoldsReset

/-- R153, R154: `LZ.STORE` copies the whole live dictionary into the bank and marks it valid, and nothing else changes.
`LZ.RESTORE` copies the bank back, the snapshot staying valid and unchanged; without a snapshot it faults `NO_SNAPSHOT`
and changes nothing else. -/
def Obligations.LzStoreAndRestore : Prop :=
  ∀ s : State, s.err = 0#8 →
    exec .lzStore s = .next ((s.setSnap s.lzc).setSnapValid true) ∧
    (s.snapValid = true → exec .lzRestore s = .next (s.setLzc s.snap)) ∧
    (s.snapValid = false → exec .lzRestore s = .next ((s.setErr 5#8).setErrInfo 0#32))

/-- R32, R26: no instruction but `LZ.STORE` and `LZ.CBLK` changes the snapshot bank, and they put the live dictionary
from before them into it; `SNAP_VALID` becomes 1 only by them and 0 only by `LZ.CRESET` and `SYS.RESET`. -/
def Obligations.SnapshotWrittenOnlyBy : Prop :=
  ∀ (i : Instr) (s t : State), exec i s = .next t →
    (t.snap ≠ s.snap → (i = .lzStore ∨ i = .lzCblk) ∧ t.snap = s.lzc ∧ t.snapValid = true) ∧
    (t.snapValid ≠ s.snapValid →
      if t.snapValid then i = .lzStore ∨ i = .lzCblk else i = .lzCreset ∨ i = .sysReset)

/-- R151, R254: with its operand checks passed `LZ.COMP` completes: the compressed bytes in `OBUF` from index 0 and no
other byte of it changed, their number in `OUT_LEN`, the input put byte by byte into the dictionary; nothing else
changes. -/
def Obligations.LzCompResult : Prop :=
  ∀ s : State, s.err = 0#8 → s.inLen ≤ s.cfg.ibufCap → s.inLen + (s.inLen + 7) / 8 ≤ s.cfg.obufCap →
    ∃ t : State, exec .lzComp s = .next t ∧
      t = ((s.setObuf t.obuf).setLzc (s.input.foldl Lzc.putByte s.lzc)).setOutLen
        (BitVec.ofNat 32 (compress s.lzc s.input).1.length) ∧
      ∀ a : Nat, t.readByte .obuf a = ((compress s.lzc s.input).1[a]?).getD (s.readByte .obuf a)

/-- R94, R151, R152: what a compression emits is its tokens in groups of eight, each group after its control byte, the
last group without padding, and nothing for the empty input; no token is a control byte or a short match with length code 15. -/
def Obligations.CompressEmitsItsTokens : Prop :=
  ∀ (l : Lzc) (inp : List Byte),
    (compress l inp).1 = streamBytes inp.length (l.tokens inp.length inp) ∧
    ∀ t ∈ l.tokens inp.length inp, tokenProper t = true

/-- R156: for any dictionary and any input the compressed bytes are at most the input's number and an eighth of it,
rounded up. -/
def Obligations.CompressOutputBound : Prop :=
  ∀ (l : Lzc) (inp : List Byte), (compress l inp).1.length ≤ inp.length + (inp.length + 7) / 8

/-- R155: `LZ.CBLK` is `LZ.STORE`; `LZ.COMP`; keep with `MARK` 0 if strictly smaller; else `LZ.RESTORE`, which gives the
dictionary as it was, the input itself copied over `OBUF` from index 0, and `MARK` 1. In the raw case the bytes of `OBUF`
past the input are as the attempt left them, as the pseudocode has it (assumption log 26). -/
def Obligations.CblkIsStoreCompRestore : Prop :=
  ∀ s : State, s.err = 0#8 → s.cfg.Valid → s.inLen ≤ s.cfg.ibufCap →
    s.inLen + (s.inLen + 7) / 8 ≤ s.cfg.obufCap →
    ∃ u v w : State, exec .lzStore s = .next u ∧ exec .lzComp u = .next v ∧ exec .lzRestore v = .next w ∧
      v.x.outLen.toNat = (compress s.lzc s.input).1.length ∧ w.lzc = s.lzc ∧
      ((compress s.lzc s.input).1.length < s.inLen → exec .lzCblk s = .next (v.setMark 0#32)) ∧
      (s.inLen ≤ (compress s.lzc s.input).1.length → ∃ t : State, exec .lzCblk s = .next t ∧
        t = ((w.setObuf t.obuf).setMark 1#32).setOutLen s.x.inLen ∧
        ∀ a : Nat, t.readByte .obuf a = if a < s.inLen then s.readByte .ibuf a else v.readByte .obuf a)

/-- R131, R132: `INSERT` puts a position that is in no chain at the head of its key's chain; `DELETE` takes a position
out of its chain and leaves the others in their order. -/
def Obligations.InsertAndDeleteChains : Prop :=
  (∀ (l : Lzc) (p : Pos) (ch : List Pos), l.getPrev p = none → l.getNext p = none →
    l.IsChain (l.getMap (l.key p)) ch → p ∉ ch →
    (l.insert p).IsChain ((l.insert p).getMap (l.key p)) (p :: ch) ∧ (l.insert p).getPrev p = none ∧
      (∀ h : BitVec 16, h ≠ l.key p → (l.insert p).getMap h = l.getMap h) ∧
      (∀ i : Nat, (l.insert p).getText i = l.getText i) ∧ (l.insert p).cs = l.cs) ∧
  (∀ (l : Lzc) (p : Pos) (before after : List Pos),
    (∀ a b : Pos, l.getNext a = some b ↔ l.getPrev b = some a) →
    (l.getPrev p = none ↔ l.getMap (l.key p) = some p) →
    l.IsChain (l.getMap (l.key p)) (before ++ p :: after) → (before ++ p :: after).Nodup →
    (l.delete p).IsChain ((l.delete p).getMap (l.key p)) (before ++ after) ∧
      (l.delete p).getPrev p = none ∧ (l.delete p).getNext p = none ∧
      (∀ h : BitVec 16, h ≠ l.key p → (l.delete p).getMap h = l.getMap h) ∧
      (∀ i : Nat, (l.delete p).getText i = l.getText i) ∧ (l.delete p).cs = l.cs)

/-- R133, R138: `PUTBYTE` keeps the dictionary invariant of R31; it stores the byte at the cursor and moves the cursor on
by one. -/
def Obligations.PutByteKeepsInvariant : Prop :=
  ∀ (l : Lzc) (c : Byte), l.Ok →
    (l.putByte c).Ok ∧ (l.putByte c).cs = l.cs + 1#12 ∧
      ∀ p : Pos, (l.putByte c).getText p.toNat = if p = l.cs then c else l.getText p.toNat

/-- R31, R138, R292: every step keeps the dictionary invariant, of the live dictionary and of a valid snapshot. -/
def Obligations.StepKeepsDictionaries : Prop := ∀ s t : State, s.DictsOk → step s = .next t → t.DictsOk

/-- R134 to R137, R139: while the invariant holds, the match finder gives a usable match, none is longer, and no
candidate newer on the chain is as long; with fewer than three bytes left it gives nothing. -/
def Obligations.FindMatchIsLongest : Prop :=
  ∀ (l : Lzc) (inp : List Byte), l.Ok →
    (inp.length < 3 → (l.findMatch inp).1 = 0) ∧
    (3 ≤ inp.length → ∀ (p : Pos) (n : Nat), l.Usable inp p n → n ≤ (l.findMatch inp).1) ∧
    (3 ≤ (l.findMatch inp).1 → l.Usable inp (l.findMatch inp).2 (l.findMatch inp).1 ∧
      ∀ newer older : List Pos,
        l.IsChain (l.getMap (l.key (l.findMatch inp).2)) (newer ++ (l.findMatch inp).2 :: older) →
        ∀ p ∈ newer, ¬l.Usable inp p (l.findMatch inp).1)

/-- R177: a compression and then a decompression of its bytes, from a window and a ring with the same history, give back
the input, and the histories are again the same. -/
def Obligations.RoundTripKeepsInStep : Prop :=
  ∀ s d : State, s.err = 0#8 → s.cfg.Valid → s.inLen ≤ s.cfg.ibufCap →
    s.inLen + (s.inLen + 7) / 8 ≤ s.cfg.obufCap → s.lzc.Ok → InStep s.lzc d.lzd → d.err = 0#8 →
    ∃ t : State, exec .lzComp s = .next t ∧
      (d.input = (List.range t.x.outLen.toNat).map (t.readByte .obuf) → d.inLen ≤ d.cfg.ibufCap →
        s.inLen ≤ d.cfg.obufCap →
        ∃ v : State, exec .lzDecomp d = .next v ∧ v.err = 0#8 ∧ v.x.outLen = s.x.inLen ∧
          (∀ a : Nat, a < s.inLen → v.readByte .obuf a = s.readByte .ibuf a) ∧ InStep t.lzc v.lzd)

/-! ## LZD -/

/-- R171: `LZ.PRIME` loads the priming pattern, four bytes `i` and four bytes `j` for each `i` below 32 and `j` below 16,
sets the cursor to 0, and changes nothing else. -/
def Obligations.LzPrimeResult : Prop :=
  ∀ s : State, s.err = 0#8 → ∃ t : State, exec .lzPrime s = .next t ∧ t = s.setLzd t.lzd ∧ t.lzd.dr = 0#12 ∧
    ∀ i j k : Nat, i < 32 → j < 16 → k < 4 →
      t.lzd.get (BitVec.ofNat 12 (8 * (16 * i + j) + k)) = BitVec.ofNat 8 i ∧
      t.lzd.get (BitVec.ofNat 12 (8 * (16 * i + j) + 4 + k)) = BitVec.ofNat 8 j

/-- R172, R173: a control byte that is not the last byte of the input gives a group of eight control bits, and nothing
else changes; the last byte of the input as a control byte is truncated. -/
def Obligations.CtrlResult : Prop :=
  ∀ (s : State) (f : Byte), s.err = 0#8 →
    (s.lz.ip + 1 ≠ s.inLen →
      exec (.ctrl f) s = .next (s.setLz { ip := s.lz.ip + 1, op := s.lz.op, ctrl := f, nbits := 8 })) ∧
    (s.lz.ip + 1 = s.inLen → ∃ t : State, exec (.ctrl f) s = .next t ∧ LzFaulted s t 4#8 (s.lz.ip + 1))

/-- R174: a literal goes into the ring at `DR` and into `OBUF` at `op`, both cursors move on by one, and one control bit
is used up; nothing else changes. -/
def Obligations.LitResult : Prop :=
  ∀ (s : State) (c : Byte), s.err = 0#8 → s.lz.op + 1 ≤ s.cfg.obufCap →
    ∃ t : State, exec (.lit c) s = .next t ∧ t = ((s.setLzd t.lzd).setObuf t.obuf).setLz t.lz ∧
      t.lzd.dr = s.lzd.dr + 1#12 ∧
      (∀ p : Pos, t.lzd.get p = if p = s.lzd.dr then c else s.lzd.get p) ∧
      (∀ a : Nat, t.readByte .obuf a = if a = s.lz.op then c else s.readByte .obuf a) ∧
      t.lz = { ip := s.lz.ip + 1, op := s.lz.op + 1, ctrl := s.lz.ctrl >>> 1, nbits := s.lz.nbits - 1 }

/-- R175, R99: a match copies its bytes one at a time, each written before the next is read: a source position already
overwritten by this match reads as the byte written there, any other as the ring had it. Ring and `OBUF` take the same
bytes; nothing else changes but the cursors. The length is `lc + 3` for `MATCH`, `18 + ext` for `MATCHX`. -/
def Obligations.MatchResult : Prop :=
  ∀ (s : State) (p : Pos), s.err = 0#8 → ∀ (i : Instr) (bytes len : Nat),
    ((∃ lc : BitVec 4, i = .lzMatch p lc ∧ bytes = 2 ∧ len = lc.toNat + 3) ∨
      (∃ ext : Byte, i = .lzMatchx p ext ∧ bytes = 3 ∧ len = 18 + ext.toNat)) →
    s.lz.op + len ≤ s.cfg.obufCap →
    ∃ t : State, exec i s = .next t ∧ t = ((s.setLzd t.lzd).setObuf t.obuf).setLz t.lz ∧
      (∀ a : Nat, a < len → t.readByte .obuf (s.lz.op + a) =
        if (p + BitVec.ofNat 12 a - s.lzd.dr).toNat < a then
          t.readByte .obuf (s.lz.op + (p + BitVec.ofNat 12 a - s.lzd.dr).toNat)
        else s.lzd.get (p + BitVec.ofNat 12 a)) ∧
      (∀ a : Nat, a < s.lz.op ∨ s.lz.op + len ≤ a → t.readByte .obuf a = s.readByte .obuf a) ∧
      (∀ q : Pos, t.lzd.get q =
        if (q - s.lzd.dr).toNat < len then t.readByte .obuf (s.lz.op + (q - s.lzd.dr).toNat) else s.lzd.get q) ∧
      t.lzd.dr = s.lzd.dr + BitVec.ofNat 12 len ∧
      t.lz = { ip := s.lz.ip + bytes, op := s.lz.op + len, ctrl := s.lz.ctrl >>> 1, nbits := s.lz.nbits - 1 }

/-- R175: a match that starts `w` bytes behind the cursor repeats the last `w` bytes cyclically, whatever its length; one
that starts at the cursor (`w` = 4096) re-reads the oldest bytes. -/
def Obligations.OverlappingMatchRepeats : Prop :=
  ∀ (s : State) (w : Nat), s.err = 0#8 → 1 ≤ w → w ≤ 4096 → ∀ (i : Instr) (len : Nat),
    ((∃ lc : BitVec 4, i = .lzMatch (s.lzd.dr - BitVec.ofNat 12 w) lc ∧ len = lc.toNat + 3) ∨
      (∃ ext : Byte, i = .lzMatchx (s.lzd.dr - BitVec.ofNat 12 w) ext ∧ len = 18 + ext.toNat)) →
    s.lz.op + len ≤ s.cfg.obufCap →
    ∃ t : State, exec i s = .next t ∧
      (∀ a : Nat, a < len → t.readByte .obuf (s.lz.op + a) =
        s.lzd.get (s.lzd.dr - BitVec.ofNat 12 w + BitVec.ofNat 12 (a % w))) ∧
      (w = 4096 → ∀ q : Pos, t.lzd.get q = s.lzd.get q)

/-- R172, R174, R175, R256 (b), R258: a token whose output does not fit raises `OUT_OVERFLOW` with `op`; inside
`LZ.DECOMP` a match cut after its first byte, or a long match cut before its extension byte, raises `LZ_TRUNCATED` with
the stream cursor where that is found. (What the fault leaves open: assumption log 9.) -/
def Obligations.TokenFaults : Prop :=
  (∀ (s : State) (i : Instr) (len : Nat), s.err = 0#8 →
    ((∃ c : Byte, i = .lit c ∧ len = 1) ∨ (∃ (p : Pos) (lc : BitVec 4), i = .lzMatch p lc ∧ len = lc.toNat + 3) ∨
      (∃ (p : Pos) (ext : Byte), i = .lzMatchx p ext ∧ len = 18 + ext.toNat)) →
    s.cfg.obufCap < s.lz.op + len → ∃ t : State, exec i s = .next t ∧ LzFaulted s t 3#8 s.lz.op) ∧
  (∀ s : State, s.phase = .lzDecomp → s.lz.nbits ≠ 0 → s.lz.ctrl.getLsbD 0 = true →
    (s.inLen = s.lz.ip + 1 → ∃ t : State, step s = .next t ∧ LzFaulted s t 4#8 s.lz.ip) ∧
    (s.inLen = s.lz.ip + 2 → (s.readByte .ibuf (s.lz.ip + 1)).extractLsb' 4 4 = 15#4 →
      ∃ t : State, step s = .next t ∧ LzFaulted s t 4#8 (s.lz.ip + 2)))

/-- R172 to R176, R264 (b): `LZ.DECOMP` of a whole token stream, with any values in the unused control bits of its last
group, completes and does what its tokens do, one after another: their bytes in `OBUF` from index 0 and no other byte of
it changed, their number in `OUT_LEN`, ring and cursor as the tokens leave them; nothing else changes. -/
def Obligations.LzDecompDecodesTokens : Prop :=
  ∀ (s : State) (ts : List LzToken) (spare : Nat), s.err = 0#8 → s.inLen ≤ s.cfg.ibufCap →
    (∀ t ∈ ts, tokenProper t = true) → s.input = streamWithSpare spare ts.length ts →
    (s.lzd.items ts).2.length ≤ s.cfg.obufCap →
    ∃ t : State, exec .lzDecomp s = .next t ∧
      t = (((endCommand s).setLzd (s.lzd.items ts).1).setObuf t.obuf).setOutLen
        (BitVec.ofNat 32 (s.lzd.items ts).2.length) ∧
      ∀ a : Nat, t.readByte .obuf a = ((s.lzd.items ts).2[a]?).getD (s.readByte .obuf a)

/-- R10 and assumption log 4: `LZ.DECOMP` and `GR.DEC` are the steps of their items and codes, one after another, from
their first to their last; the model runs them as one. (`POOL_LEN` 0 ends `GR.DEC` before its first code: GolombFaults.) -/
def Obligations.CommandsAreTheirItems : Prop :=
  (∀ s : State, s.err = 0#8 → s.inLen ≤ s.cfg.ibufCap →
    ∃ (n : Nat) (t : State), n ≤ s.inLen + 1 ∧ exec .lzDecomp s = .next t ∧
      Host.Core.run Sys2Proof.core n (lzBegin s) = .next t ∧ t.phase = .idle) ∧
  (∀ s : State, s.err = 0#8 → firstFailing (grChecks s) = none → 0 < s.pixCount → 0 < s.poolLen →
    ∃ (n : Nat) (t : State), n ≤ 2 * s.pixCount + 1 ∧ exec .grDec s = .next t ∧
      Host.Core.run Sys2Proof.core n (grBegin (s.readByte .pool 0) s) = .next t ∧ t.phase = .idle)

/-- R21, R62, R256 (b): whatever `LZ.DECOMP` does, faulting or not, it changes only `ERR`, `ERR_INFO`, the ring and its
cursor, `OBUF` and `OUT_LEN` (and the model's own transient values and draws). When it ends without a fault, `OUT_LEN` is
at most the capacity and every byte of `OBUF` at `OUT_LEN` and beyond keeps what it held. (After a data fault `OBUF` is
left open: assumption log 9.) -/
def Obligations.LzDecompFrame : Prop :=
  ∀ s t : State, exec .lzDecomp s = .next t →
    t = ((((((((s.setErr t.err).setErrInfo t.errInfo).setLzd t.lzd).setObuf t.obuf).setOutLen
      t.x.outLen).setPhase t.phase).setLz t.lz).setGr t.gr).setDraws t.draws ∧
    (s.err = 0#8 → t.err = 0#8 → s.cfg.Valid → t.x.outLen.toNat ≤ s.cfg.obufCap ∧
      ∀ a : Nat, t.x.outLen.toNat ≤ a → t.readByte .obuf a = s.readByte .obuf a)

/-! ## GR -/

/-- R194, R195, R200: a run length that fits. For a zero run the target lanes of that many words become 0 and the
decoder moves past them; for a non-zero run the residuals begin. The accumulator and the context are not touched, and
nothing else changes. -/
def Obligations.GammaResult : Prop :=
  ∀ (s : State) (z k : Nat), s.err = 0#8 → z ≤ 24 → s.gr.i + (2 ^ z + k) ≤ s.gr.lim → s.x.chan.toNat ≤ 3 →
    (s.gr.zero = true → ∃ t : State, exec (.gamma z k) s = .next t ∧
      t = (s.setPix t.pix).setGr
        { s.gr with i := s.gr.i + (2 ^ z + k), cur := s.gr.cur.advance (2 * z + 1), zero := false } ∧
      ∀ a : Nat, t.readByte .pix a =
        if 4 * s.gr.i ≤ a ∧ a < 4 * (s.gr.i + (2 ^ z + k)) ∧
            (s.x.first = 1#32 ∨ a % 4 = s.x.chan.toNat) then 0#8
        else s.readByte .pix a) ∧
    (s.gr.zero = false → exec (.gamma z k) s = .next
      (s.setGr { s.gr with cur := s.gr.cur.advance (2 * z + 1), run := 2 ^ z + k }))

/-- R196 to R200: a residual with raw value `v`, in normal or escape form. The residual is `v/2 + 1` with the sign its
low bit gives, truncated to 8 bits, zero-extended to the word for `FIRST` = 1, in lane `CHAN` else; the accumulator and
the context adapt; the cursor moves past the code; the run counts down and the toggle flips after its last residual.
Nothing else changes. -/
def Obligations.ResidualResult : Prop :=
  ∀ (s : State) (i : Instr) (v : Nat) (cur : BitCursor), s.err = 0#8 → s.gr.a < 1024 → s.x.chan.toNat ≤ 3 →
    ((∃ q r : Nat, i = .golomb q r ∧ v = q * 2 ^ gbl s.gr.a s.gr.n + r ∧
        cur = s.gr.cur.advance (q + 1 + gbl s.gr.a s.gr.n)) ∨
      (∃ (q : Byte) (r : Nat), i = .golombx q r ∧ v = q.toNat * 2 ^ gbl s.gr.a s.gr.n + r ∧
        cur = BitCursor.advance ⟨s.gr.cur.bp + 5, 0⟩ (gbl s.gr.a s.gr.n))) →
    ∃ (t : State) (e : Byte), exec i s = .next t ∧
      e = BitVec.ofInt 8 (if decide (v % 2 = 0) = s.cfg.evenPositive then ((v / 2 + 1 : Nat) : Int)
        else -((v / 2 + 1 : Nat) : Int)) ∧
      t = (s.setPix t.pix).setGr t.gr ∧
      (∀ a : Nat, t.readByte .pix a =
        if s.x.first = 1#32 then
          (if a = 4 * s.gr.i then e else if a / 4 = s.gr.i then 0#8 else s.readByte .pix a)
        else if a = 4 * s.gr.i + s.x.chan.toNat then e else s.readByte .pix a) ∧
      t.gr.i = s.gr.i + 1 ∧ t.gr.lim = s.gr.lim ∧ t.gr.cur = cur ∧
      t.gr.n = (if s.gr.n = 0 then 3 else s.gr.n - 1) ∧
      t.gr.a = (if s.gr.n = 0 then (s.gr.a + v / 2) / 2 else s.gr.a + v / 2) ∧
      t.gr.run = s.gr.run - 1 ∧ t.gr.zero = (if s.gr.run ≤ 1 then true else s.gr.zero)

/-- R192, R194, R196, R197, R201, R256 (c), R258: the data faults of `GR.DEC`. A run past the residuals wanted, or a count
with 25 or more leading zeros, raises `GR_OVERRUN` with the next pixel's index; a residual with the accumulator at 1024
or more raises `GR_TABLE_RANGE` with it, before any fetch; any fetch not inside `POOL_LEN` raises `GR_INDEX_RANGE` with
its byte index, the polarity byte's (`POOL_LEN` 0) included. The last three clauses say in stream bits which fetch that
is, and which count is too long. (What the fault leaves open: assumption log 10; codes on their own: logs 4 and 5.) -/
def Obligations.GolombFaults : Prop :=
  (∀ s : State, s.x.chan.toNat ≤ 3 →
    (s.err = 0#8 →
      (∀ z k : Nat, 25 ≤ z ∨ s.gr.lim < s.gr.i + (2 ^ z + k) →
        ∃ t : State, exec (.gamma z k) s = .next t ∧ GrFaulted s t 8#8 s.gr.i) ∧
      (1024 ≤ s.gr.a →
        (∀ q r : Nat, ∃ t : State, exec (.golomb q r) s = .next t ∧ GrFaulted s t 7#8 s.gr.a) ∧
        (∀ (q : Byte) (r : Nat), ∃ t : State, exec (.golombx q r) s = .next t ∧ GrFaulted s t 7#8 s.gr.a)) ∧
      (firstFailing (grChecks s) = none → 0 < s.pixCount → s.poolLen = 0 →
        ∃ t : State, exec .grDec s = .next t ∧ GrFaulted s t 6#8 0)) ∧
    (s.phase = .grDec →
      (s.gr.run ≠ 0 → 1024 ≤ s.gr.a → ∃ t : State, step s = .next t ∧ GrFaulted s t 7#8 s.gr.a) ∧
      (s.gr.run = 0 → s.gr.i < s.gr.lim →
        (gammaAt s.poolByte s.poolLen s.gr.cur = .reject .countTooLong →
          ∃ t : State, step s = .next t ∧ GrFaulted s t 8#8 s.gr.i) ∧
        ∀ bp : Nat, gammaAt s.poolByte s.poolLen s.gr.cur = .reject (.poolRange bp) →
          ∃ t : State, step s = .next t ∧ GrFaulted s t 6#8 bp) ∧
      (s.gr.run ≠ 0 → s.gr.a < 1024 → ∀ bp : Nat,
        valueAt s.poolByte s.poolLen (gbl s.gr.a s.gr.n) s.gr.cur = .reject (.poolRange bp) →
          ∃ t : State, step s = .next t ∧ GrFaulted s t 6#8 bp))) ∧
  ∀ (pool : Nat → Byte) (len : Nat) (c : BitCursor), c.bit < 8 →
    (∀ bp : Nat, gammaAt pool len c = .reject (.poolRange bp) ↔ GammaMisses pool len c bp) ∧
    (∀ k bp : Nat, valueAt pool len k c = .reject (.poolRange bp) ↔ ValueMisses pool len c bp) ∧
    (gammaAt pool len c = .reject .countTooLong ↔ ∃ z : Nat, 25 ≤ z ∧ ZerosThenOne pool c z ∧ FindsOne len c z)

/-- R102, R192 to R203: `GR.DEC` of a well-formed pool with four readable bytes after its last coded byte completes: the
residuals of its runs in the target words, whole words for `FIRST` = 1 and lane `CHAN` else; no other byte of `PIX` and
nothing else changes. -/
def Obligations.GrDecDecodesRuns : Prop :=
  ∀ (s : State) (polarity : Bool) (runs : List GrRun), s.err = 0#8 → s.cfg.Valid → s.x.chan.toNat ≤ 3 →
    s.x.first.toNat ≤ 1 → (s.x.first.toNat = 1 → s.x.chan.toNat = 0) → s.poolLen ≤ s.cfg.poolCap →
    s.pixBase + s.pixCount ≤ s.cfg.pixCap → 0 < s.pixCount →
    alternates (!polarity) runs = true → GrContext.encodesRuns ⟨1, 3, 0⟩ runs = true →
    (residuals s.cfg.evenPositive runs).length = s.pixCount →
    (∀ j : Nat, j < (poolBits polarity runs).length →
      (poolBits polarity runs)[j]? = some (streamBit s.poolByte j)) →
    ((poolBits polarity runs).length - 1) / 8 + 5 ≤ s.poolLen →
    ∃ t : State, exec .grDec s = .next t ∧ t = (endCommand s).setPix t.pix ∧
      (∀ j : Nat, j < s.pixCount → ∃ e : Byte, (residuals s.cfg.evenPositive runs)[j]? = some e ∧
        (s.x.first = 1#32 → t.readPixWord (s.pixBase + j) = e.zeroExtend 32) ∧
        (s.x.first = 0#32 → t.readByte .pix (4 * (s.pixBase + j) + s.x.chan.toNat) = e)) ∧
      ∀ a : Nat, ¬s.targets a → t.readByte .pix a = s.readByte .pix a

/-- R256 (c), R37, R21: whatever `GR.DEC` does, faulting or not, it changes only `ERR`, `ERR_INFO` and `PIX` (and the
model's own transient values and draws), and of `PIX` only the target lanes. -/
def Obligations.GrDecFrame : Prop :=
  ∀ s t : State, exec .grDec s = .next t →
    t = ((((((s.setErr t.err).setErrInfo t.errInfo).setPix t.pix).setPhase t.phase).setLz t.lz).setGr
      t.gr).setDraws t.draws ∧
    ∀ a : Nat, ¬s.targets a → t.readByte .pix a = s.readByte .pix a

/-- R202: the result of `GR.DEC` is a function of its operands, the pool below `POOL_LEN` and the parameters; every lane
it does not write keeps its previous contents. -/
def Obligations.GrDecDeterminism : Prop :=
  ∀ s u : State, s.err = 0#8 → u.err = 0#8 → s.x.pixBase = u.x.pixBase → s.x.pixCount = u.x.pixCount →
    s.x.chan = u.x.chan → s.x.first = u.x.first → s.x.poolLen = u.x.poolLen →
    s.cfg.evenPositive = u.cfg.evenPositive → s.cfg.poolCap = u.cfg.poolCap → s.cfg.pixCap = u.cfg.pixCap →
    (∀ a : Nat, a < s.poolLen → s.readByte .pool a = u.readByte .pool a) →
    ∃ t v : State, exec .grDec s = .next t ∧ exec .grDec u = .next v ∧ t.err = v.err ∧ t.errInfo =
      (if t.err = 0#8 then s.errInfo else v.errInfo) ∧
      (t.err = 0#8 → ∀ a : Nat,
        (s.targets a → t.readByte .pix a = v.readByte .pix a) ∧
        (¬s.targets a → t.readByte .pix a = s.readByte .pix a))

/-! ## Operand checks and empty operands -/

/-- R254: the operand checks, in their order, and what a failing one leaves: `ERR` 2, its number in `ERR_INFO`, nothing
else changed. -/
def Obligations.OperandChecksInOrder : Prop :=
  ∀ s : State, s.err = 0#8 →
    (∀ i : Instr, i = .lzComp ∨ i = .lzCblk ∨ i = .lzDecomp → s.cfg.ibufCap < s.inLen →
      exec i s = .next ((s.setErr 2#8).setErrInfo 0#32)) ∧
    (∀ i : Instr, i = .lzComp ∨ i = .lzCblk → s.inLen ≤ s.cfg.ibufCap →
      s.cfg.obufCap < s.inLen + (s.inLen + 7) / 8 → exec i s = .next ((s.setErr 2#8).setErrInfo 1#32)) ∧
    (3 < s.x.chan.toNat → exec .grDec s = .next ((s.setErr 2#8).setErrInfo 2#32)) ∧
    (s.x.chan.toNat ≤ 3 → 1 < s.x.first.toNat → exec .grDec s = .next ((s.setErr 2#8).setErrInfo 3#32)) ∧
    (s.x.chan.toNat ≤ 3 → s.x.first.toNat = 1 → s.x.chan.toNat ≠ 0 →
      exec .grDec s = .next ((s.setErr 2#8).setErrInfo 4#32)) ∧
    (s.x.chan.toNat ≤ 3 → s.x.first.toNat ≤ 1 → (s.x.first.toNat = 1 → s.x.chan.toNat = 0) →
      s.cfg.poolCap < s.poolLen → exec .grDec s = .next ((s.setErr 2#8).setErrInfo 5#32)) ∧
    (s.x.chan.toNat ≤ 3 → s.x.first.toNat ≤ 1 → (s.x.first.toNat = 1 → s.x.chan.toNat = 0) →
      s.poolLen ≤ s.cfg.poolCap → s.cfg.pixCap < s.pixBase + s.pixCount →
      exec .grDec s = .next ((s.setErr 2#8).setErrInfo 6#32))

/-- R244: with a length of 0 the LZ commands write `OUT_LEN` = 0 and change no dictionary state (`LZ.CBLK` still takes
its snapshot and answers `MARK` = 1), and `GR.DEC` does nothing. -/
def Obligations.ZeroLengthCommands : Prop :=
  ∀ s : State, s.err = 0#8 →
    (s.x.inLen = 0#32 →
      exec .lzComp s = .next (s.setOutLen 0#32) ∧
      exec .lzCblk s = .next ((((s.setSnap s.lzc).setSnapValid true).setMark 1#32).setOutLen 0#32) ∧
      exec .lzDecomp s = .next ((endCommand s).setOutLen 0#32)) ∧
    (s.x.pixCount = 0#32 → firstFailing (grChecks s) = none → exec .grDec s = .next s)

/-! ## PK -/

/-- R221: `PK.GT` writes the unsigned strict greater-than mask of each lane to `PK_Y` and nothing else. -/
def Obligations.PkGtLanes : Prop :=
  ∀ s : State, s.err = 0#8 → ∃ y : Word, exec .pkGt s = .next (s.setPkY y) ∧
    ∀ k : Nat, k < 4 → lane y k = if (lane s.x.pkB k).toNat < (lane s.x.pkA k).toNat then 0xFF#8 else 0x00#8

/-- R222: `PK.ADD` writes the sum modulo 256 of each lane to `PK_Y` and nothing else. -/
def Obligations.PkAddLanes : Prop :=
  ∀ s : State, s.err = 0#8 → ∃ y : Word, exec .pkAdd s = .next (s.setPkY y) ∧
    ∀ k : Nat, k < 4 → (lane y k).toNat = ((lane s.x.pkA k).toNat + (lane s.x.pkB k).toNat) % 256

/-- R223: `PK.AVG` writes the average, rounded up, of each lane to `PK_Y` and nothing else. -/
def Obligations.PkAvgLanes : Prop :=
  ∀ s : State, s.err = 0#8 → ∃ y : Word, exec .pkAvg s = .next (s.setPkY y) ∧
    ∀ k : Nat, k < 4 → (lane y k).toNat = ((lane s.x.pkA k).toNat + (lane s.x.pkB k).toNat + 1) / 2

/-- R224: `PK.MED` writes, for each lane, the gradient `a + b - c` clamped between the smaller and the larger of `a` and
`b` to `PK_Y`, and nothing else. -/
def Obligations.PkMedLanes : Prop :=
  ∀ s : State, s.err = 0#8 → ∃ y : Word, exec .pkMed s = .next (s.setPkY y) ∧
    ∀ k : Nat, k < 4 → ((lane y k).toNat : Int) =
      max (min ((lane s.x.pkA k).toNat : Int) (lane s.x.pkB k).toNat)
        (min (max ((lane s.x.pkA k).toNat : Int) (lane s.x.pkB k).toNat)
          ((lane s.x.pkA k).toNat + (lane s.x.pkB k).toNat - (lane s.x.pkC k).toNat))

/-- R225: the branchless word-level forms give what the four commands write, for every operand value. (Their unbalanced
parenthesis is read as assumption log 20 says.) -/
def Obligations.BranchlessForms : Prop :=
  ∀ s : State, s.err = 0#8 →
    exec .pkGt s = .next (s.setPkY (gtWord s.x.pkA s.x.pkB)) ∧
    exec .pkAdd s = .next (s.setPkY (addWord s.x.pkA s.x.pkB)) ∧
    exec .pkAvg s = .next (s.setPkY (avgWord s.x.pkA s.x.pkB)) ∧
    exec .pkMed s = .next (s.setPkY (medWord s.x.pkA s.x.pkB s.x.pkC))

/-! ## Invariants of the whole state -/

/-- Every step keeps buffers and dictionary arrays in canonical form (assumption log 13): equal contents are equal
data. -/
def Obligations.StepKeepsCanonical : Prop := ∀ s t : State, s.Canonical → step s = .next t → t.Canonical

/-- R60, R64, R70: no step writes a byte outside a buffer's capacity. -/
def Obligations.StepKeepsInside : Prop :=
  ∀ s t : State, s.Inside → s.GrInside → step s = .next t → t.Inside ∧ t.GrInside

/-- R31, R39, R251: the reset state meets every invariant that steps are said to keep. -/
def Obligations.ResetMeetsInvariants : Prop :=
  State.reset.DictsOk ∧ State.reset.Canonical ∧ State.reset.Inside ∧ State.reset.GrInside ∧
    State.reset.ErrorsOk ∧ State.reset.DetailsOk ∧ State.reset.CommandOk ∧ State.reset.Idle

end
end

