-- ==== Sys2Proof/Laws/State.lean ====
section
/-! SUPPORT. Beside State: what every field reads after every field update, so that no later proof unfolds a record
update; the same for the register file. -/

namespace Sys2Proof.Machine

/-! ### After writing `x` -/

@[simp] theorem State.x_setX (s : State) (v : Regs) : (s.setX v).x = v := rfl
@[simp] theorem State.err_setX (s : State) (v : Regs) : (s.setX v).err = s.err := rfl
@[simp] theorem State.errInfo_setX (s : State) (v : Regs) : (s.setX v).errInfo = s.errInfo := rfl
@[simp] theorem State.lzc_setX (s : State) (v : Regs) : (s.setX v).lzc = s.lzc := rfl
@[simp] theorem State.snap_setX (s : State) (v : Regs) : (s.setX v).snap = s.snap := rfl
@[simp] theorem State.snapValid_setX (s : State) (v : Regs) : (s.setX v).snapValid = s.snapValid := rfl
@[simp] theorem State.lzd_setX (s : State) (v : Regs) : (s.setX v).lzd = s.lzd := rfl
@[simp] theorem State.ibuf_setX (s : State) (v : Regs) : (s.setX v).ibuf = s.ibuf := rfl
@[simp] theorem State.obuf_setX (s : State) (v : Regs) : (s.setX v).obuf = s.obuf := rfl
@[simp] theorem State.pool_setX (s : State) (v : Regs) : (s.setX v).pool = s.pool := rfl
@[simp] theorem State.pix_setX (s : State) (v : Regs) : (s.setX v).pix = s.pix := rfl
@[simp] theorem State.cfg_setX (s : State) (v : Regs) : (s.setX v).cfg = s.cfg := rfl
@[simp] theorem State.phase_setX (s : State) (v : Regs) : (s.setX v).phase = s.phase := rfl
@[simp] theorem State.lz_setX (s : State) (v : Regs) : (s.setX v).lz = s.lz := rfl
@[simp] theorem State.gr_setX (s : State) (v : Regs) : (s.setX v).gr = s.gr := rfl
@[simp] theorem State.events_setX (s : State) (v : Regs) : (s.setX v).events = s.events := rfl
@[simp] theorem State.bus_setX (s : State) (v : Regs) : (s.setX v).bus = s.bus := rfl
@[simp] theorem State.draws_setX (s : State) (v : Regs) : (s.setX v).draws = s.draws := rfl

/-! ### After writing `err` -/

@[simp] theorem State.x_setErr (s : State) (v : Byte) : (s.setErr v).x = s.x := rfl
@[simp] theorem State.err_setErr (s : State) (v : Byte) : (s.setErr v).err = v := rfl
@[simp] theorem State.errInfo_setErr (s : State) (v : Byte) : (s.setErr v).errInfo = s.errInfo := rfl
@[simp] theorem State.lzc_setErr (s : State) (v : Byte) : (s.setErr v).lzc = s.lzc := rfl
@[simp] theorem State.snap_setErr (s : State) (v : Byte) : (s.setErr v).snap = s.snap := rfl
@[simp] theorem State.snapValid_setErr (s : State) (v : Byte) : (s.setErr v).snapValid = s.snapValid := rfl
@[simp] theorem State.lzd_setErr (s : State) (v : Byte) : (s.setErr v).lzd = s.lzd := rfl
@[simp] theorem State.ibuf_setErr (s : State) (v : Byte) : (s.setErr v).ibuf = s.ibuf := rfl
@[simp] theorem State.obuf_setErr (s : State) (v : Byte) : (s.setErr v).obuf = s.obuf := rfl
@[simp] theorem State.pool_setErr (s : State) (v : Byte) : (s.setErr v).pool = s.pool := rfl
@[simp] theorem State.pix_setErr (s : State) (v : Byte) : (s.setErr v).pix = s.pix := rfl
@[simp] theorem State.cfg_setErr (s : State) (v : Byte) : (s.setErr v).cfg = s.cfg := rfl
@[simp] theorem State.phase_setErr (s : State) (v : Byte) : (s.setErr v).phase = s.phase := rfl
@[simp] theorem State.lz_setErr (s : State) (v : Byte) : (s.setErr v).lz = s.lz := rfl
@[simp] theorem State.gr_setErr (s : State) (v : Byte) : (s.setErr v).gr = s.gr := rfl
@[simp] theorem State.events_setErr (s : State) (v : Byte) : (s.setErr v).events = s.events := rfl
@[simp] theorem State.bus_setErr (s : State) (v : Byte) : (s.setErr v).bus = s.bus := rfl
@[simp] theorem State.draws_setErr (s : State) (v : Byte) : (s.setErr v).draws = s.draws := rfl

/-! ### After writing `errInfo` -/

@[simp] theorem State.x_setErrInfo (s : State) (v : Word) : (s.setErrInfo v).x = s.x := rfl
@[simp] theorem State.err_setErrInfo (s : State) (v : Word) : (s.setErrInfo v).err = s.err := rfl
@[simp] theorem State.errInfo_setErrInfo (s : State) (v : Word) : (s.setErrInfo v).errInfo = v := rfl
@[simp] theorem State.lzc_setErrInfo (s : State) (v : Word) : (s.setErrInfo v).lzc = s.lzc := rfl
@[simp] theorem State.snap_setErrInfo (s : State) (v : Word) : (s.setErrInfo v).snap = s.snap := rfl
@[simp] theorem State.snapValid_setErrInfo (s : State) (v : Word) : (s.setErrInfo v).snapValid = s.snapValid := rfl
@[simp] theorem State.lzd_setErrInfo (s : State) (v : Word) : (s.setErrInfo v).lzd = s.lzd := rfl
@[simp] theorem State.ibuf_setErrInfo (s : State) (v : Word) : (s.setErrInfo v).ibuf = s.ibuf := rfl
@[simp] theorem State.obuf_setErrInfo (s : State) (v : Word) : (s.setErrInfo v).obuf = s.obuf := rfl
@[simp] theorem State.pool_setErrInfo (s : State) (v : Word) : (s.setErrInfo v).pool = s.pool := rfl
@[simp] theorem State.pix_setErrInfo (s : State) (v : Word) : (s.setErrInfo v).pix = s.pix := rfl
@[simp] theorem State.cfg_setErrInfo (s : State) (v : Word) : (s.setErrInfo v).cfg = s.cfg := rfl
@[simp] theorem State.phase_setErrInfo (s : State) (v : Word) : (s.setErrInfo v).phase = s.phase := rfl
@[simp] theorem State.lz_setErrInfo (s : State) (v : Word) : (s.setErrInfo v).lz = s.lz := rfl
@[simp] theorem State.gr_setErrInfo (s : State) (v : Word) : (s.setErrInfo v).gr = s.gr := rfl
@[simp] theorem State.events_setErrInfo (s : State) (v : Word) : (s.setErrInfo v).events = s.events := rfl
@[simp] theorem State.bus_setErrInfo (s : State) (v : Word) : (s.setErrInfo v).bus = s.bus := rfl
@[simp] theorem State.draws_setErrInfo (s : State) (v : Word) : (s.setErrInfo v).draws = s.draws := rfl

/-! ### After writing `lzc` -/

@[simp] theorem State.x_setLzc (s : State) (v : Lzc) : (s.setLzc v).x = s.x := rfl
@[simp] theorem State.err_setLzc (s : State) (v : Lzc) : (s.setLzc v).err = s.err := rfl
@[simp] theorem State.errInfo_setLzc (s : State) (v : Lzc) : (s.setLzc v).errInfo = s.errInfo := rfl
@[simp] theorem State.lzc_setLzc (s : State) (v : Lzc) : (s.setLzc v).lzc = v := rfl
@[simp] theorem State.snap_setLzc (s : State) (v : Lzc) : (s.setLzc v).snap = s.snap := rfl
@[simp] theorem State.snapValid_setLzc (s : State) (v : Lzc) : (s.setLzc v).snapValid = s.snapValid := rfl
@[simp] theorem State.lzd_setLzc (s : State) (v : Lzc) : (s.setLzc v).lzd = s.lzd := rfl
@[simp] theorem State.ibuf_setLzc (s : State) (v : Lzc) : (s.setLzc v).ibuf = s.ibuf := rfl
@[simp] theorem State.obuf_setLzc (s : State) (v : Lzc) : (s.setLzc v).obuf = s.obuf := rfl
@[simp] theorem State.pool_setLzc (s : State) (v : Lzc) : (s.setLzc v).pool = s.pool := rfl
@[simp] theorem State.pix_setLzc (s : State) (v : Lzc) : (s.setLzc v).pix = s.pix := rfl
@[simp] theorem State.cfg_setLzc (s : State) (v : Lzc) : (s.setLzc v).cfg = s.cfg := rfl
@[simp] theorem State.phase_setLzc (s : State) (v : Lzc) : (s.setLzc v).phase = s.phase := rfl
@[simp] theorem State.lz_setLzc (s : State) (v : Lzc) : (s.setLzc v).lz = s.lz := rfl
@[simp] theorem State.gr_setLzc (s : State) (v : Lzc) : (s.setLzc v).gr = s.gr := rfl
@[simp] theorem State.events_setLzc (s : State) (v : Lzc) : (s.setLzc v).events = s.events := rfl
@[simp] theorem State.bus_setLzc (s : State) (v : Lzc) : (s.setLzc v).bus = s.bus := rfl
@[simp] theorem State.draws_setLzc (s : State) (v : Lzc) : (s.setLzc v).draws = s.draws := rfl

/-! ### After writing `snap` -/

@[simp] theorem State.x_setSnap (s : State) (v : Lzc) : (s.setSnap v).x = s.x := rfl
@[simp] theorem State.err_setSnap (s : State) (v : Lzc) : (s.setSnap v).err = s.err := rfl
@[simp] theorem State.errInfo_setSnap (s : State) (v : Lzc) : (s.setSnap v).errInfo = s.errInfo := rfl
@[simp] theorem State.lzc_setSnap (s : State) (v : Lzc) : (s.setSnap v).lzc = s.lzc := rfl
@[simp] theorem State.snap_setSnap (s : State) (v : Lzc) : (s.setSnap v).snap = v := rfl
@[simp] theorem State.snapValid_setSnap (s : State) (v : Lzc) : (s.setSnap v).snapValid = s.snapValid := rfl
@[simp] theorem State.lzd_setSnap (s : State) (v : Lzc) : (s.setSnap v).lzd = s.lzd := rfl
@[simp] theorem State.ibuf_setSnap (s : State) (v : Lzc) : (s.setSnap v).ibuf = s.ibuf := rfl
@[simp] theorem State.obuf_setSnap (s : State) (v : Lzc) : (s.setSnap v).obuf = s.obuf := rfl
@[simp] theorem State.pool_setSnap (s : State) (v : Lzc) : (s.setSnap v).pool = s.pool := rfl
@[simp] theorem State.pix_setSnap (s : State) (v : Lzc) : (s.setSnap v).pix = s.pix := rfl
@[simp] theorem State.cfg_setSnap (s : State) (v : Lzc) : (s.setSnap v).cfg = s.cfg := rfl
@[simp] theorem State.phase_setSnap (s : State) (v : Lzc) : (s.setSnap v).phase = s.phase := rfl
@[simp] theorem State.lz_setSnap (s : State) (v : Lzc) : (s.setSnap v).lz = s.lz := rfl
@[simp] theorem State.gr_setSnap (s : State) (v : Lzc) : (s.setSnap v).gr = s.gr := rfl
@[simp] theorem State.events_setSnap (s : State) (v : Lzc) : (s.setSnap v).events = s.events := rfl
@[simp] theorem State.bus_setSnap (s : State) (v : Lzc) : (s.setSnap v).bus = s.bus := rfl
@[simp] theorem State.draws_setSnap (s : State) (v : Lzc) : (s.setSnap v).draws = s.draws := rfl

/-! ### After writing `snapValid` -/

@[simp] theorem State.x_setSnapValid (s : State) (v : Bool) : (s.setSnapValid v).x = s.x := rfl
@[simp] theorem State.err_setSnapValid (s : State) (v : Bool) : (s.setSnapValid v).err = s.err := rfl
@[simp] theorem State.errInfo_setSnapValid (s : State) (v : Bool) : (s.setSnapValid v).errInfo = s.errInfo := rfl
@[simp] theorem State.lzc_setSnapValid (s : State) (v : Bool) : (s.setSnapValid v).lzc = s.lzc := rfl
@[simp] theorem State.snap_setSnapValid (s : State) (v : Bool) : (s.setSnapValid v).snap = s.snap := rfl
@[simp] theorem State.snapValid_setSnapValid (s : State) (v : Bool) : (s.setSnapValid v).snapValid = v := rfl
@[simp] theorem State.lzd_setSnapValid (s : State) (v : Bool) : (s.setSnapValid v).lzd = s.lzd := rfl
@[simp] theorem State.ibuf_setSnapValid (s : State) (v : Bool) : (s.setSnapValid v).ibuf = s.ibuf := rfl
@[simp] theorem State.obuf_setSnapValid (s : State) (v : Bool) : (s.setSnapValid v).obuf = s.obuf := rfl
@[simp] theorem State.pool_setSnapValid (s : State) (v : Bool) : (s.setSnapValid v).pool = s.pool := rfl
@[simp] theorem State.pix_setSnapValid (s : State) (v : Bool) : (s.setSnapValid v).pix = s.pix := rfl
@[simp] theorem State.cfg_setSnapValid (s : State) (v : Bool) : (s.setSnapValid v).cfg = s.cfg := rfl
@[simp] theorem State.phase_setSnapValid (s : State) (v : Bool) : (s.setSnapValid v).phase = s.phase := rfl
@[simp] theorem State.lz_setSnapValid (s : State) (v : Bool) : (s.setSnapValid v).lz = s.lz := rfl
@[simp] theorem State.gr_setSnapValid (s : State) (v : Bool) : (s.setSnapValid v).gr = s.gr := rfl
@[simp] theorem State.events_setSnapValid (s : State) (v : Bool) : (s.setSnapValid v).events = s.events := rfl
@[simp] theorem State.bus_setSnapValid (s : State) (v : Bool) : (s.setSnapValid v).bus = s.bus := rfl
@[simp] theorem State.draws_setSnapValid (s : State) (v : Bool) : (s.setSnapValid v).draws = s.draws := rfl

/-! ### After writing `lzd` -/

@[simp] theorem State.x_setLzd (s : State) (v : Lzd) : (s.setLzd v).x = s.x := rfl
@[simp] theorem State.err_setLzd (s : State) (v : Lzd) : (s.setLzd v).err = s.err := rfl
@[simp] theorem State.errInfo_setLzd (s : State) (v : Lzd) : (s.setLzd v).errInfo = s.errInfo := rfl
@[simp] theorem State.lzc_setLzd (s : State) (v : Lzd) : (s.setLzd v).lzc = s.lzc := rfl
@[simp] theorem State.snap_setLzd (s : State) (v : Lzd) : (s.setLzd v).snap = s.snap := rfl
@[simp] theorem State.snapValid_setLzd (s : State) (v : Lzd) : (s.setLzd v).snapValid = s.snapValid := rfl
@[simp] theorem State.lzd_setLzd (s : State) (v : Lzd) : (s.setLzd v).lzd = v := rfl
@[simp] theorem State.ibuf_setLzd (s : State) (v : Lzd) : (s.setLzd v).ibuf = s.ibuf := rfl
@[simp] theorem State.obuf_setLzd (s : State) (v : Lzd) : (s.setLzd v).obuf = s.obuf := rfl
@[simp] theorem State.pool_setLzd (s : State) (v : Lzd) : (s.setLzd v).pool = s.pool := rfl
@[simp] theorem State.pix_setLzd (s : State) (v : Lzd) : (s.setLzd v).pix = s.pix := rfl
@[simp] theorem State.cfg_setLzd (s : State) (v : Lzd) : (s.setLzd v).cfg = s.cfg := rfl
@[simp] theorem State.phase_setLzd (s : State) (v : Lzd) : (s.setLzd v).phase = s.phase := rfl
@[simp] theorem State.lz_setLzd (s : State) (v : Lzd) : (s.setLzd v).lz = s.lz := rfl
@[simp] theorem State.gr_setLzd (s : State) (v : Lzd) : (s.setLzd v).gr = s.gr := rfl
@[simp] theorem State.events_setLzd (s : State) (v : Lzd) : (s.setLzd v).events = s.events := rfl
@[simp] theorem State.bus_setLzd (s : State) (v : Lzd) : (s.setLzd v).bus = s.bus := rfl
@[simp] theorem State.draws_setLzd (s : State) (v : Lzd) : (s.setLzd v).draws = s.draws := rfl

/-! ### After writing `ibuf` -/

@[simp] theorem State.x_setIbuf (s : State) (v : Memory) : (s.setIbuf v).x = s.x := rfl
@[simp] theorem State.err_setIbuf (s : State) (v : Memory) : (s.setIbuf v).err = s.err := rfl
@[simp] theorem State.errInfo_setIbuf (s : State) (v : Memory) : (s.setIbuf v).errInfo = s.errInfo := rfl
@[simp] theorem State.lzc_setIbuf (s : State) (v : Memory) : (s.setIbuf v).lzc = s.lzc := rfl
@[simp] theorem State.snap_setIbuf (s : State) (v : Memory) : (s.setIbuf v).snap = s.snap := rfl
@[simp] theorem State.snapValid_setIbuf (s : State) (v : Memory) : (s.setIbuf v).snapValid = s.snapValid := rfl
@[simp] theorem State.lzd_setIbuf (s : State) (v : Memory) : (s.setIbuf v).lzd = s.lzd := rfl
@[simp] theorem State.ibuf_setIbuf (s : State) (v : Memory) : (s.setIbuf v).ibuf = v := rfl
@[simp] theorem State.obuf_setIbuf (s : State) (v : Memory) : (s.setIbuf v).obuf = s.obuf := rfl
@[simp] theorem State.pool_setIbuf (s : State) (v : Memory) : (s.setIbuf v).pool = s.pool := rfl
@[simp] theorem State.pix_setIbuf (s : State) (v : Memory) : (s.setIbuf v).pix = s.pix := rfl
@[simp] theorem State.cfg_setIbuf (s : State) (v : Memory) : (s.setIbuf v).cfg = s.cfg := rfl
@[simp] theorem State.phase_setIbuf (s : State) (v : Memory) : (s.setIbuf v).phase = s.phase := rfl
@[simp] theorem State.lz_setIbuf (s : State) (v : Memory) : (s.setIbuf v).lz = s.lz := rfl
@[simp] theorem State.gr_setIbuf (s : State) (v : Memory) : (s.setIbuf v).gr = s.gr := rfl
@[simp] theorem State.events_setIbuf (s : State) (v : Memory) : (s.setIbuf v).events = s.events := rfl
@[simp] theorem State.bus_setIbuf (s : State) (v : Memory) : (s.setIbuf v).bus = s.bus := rfl
@[simp] theorem State.draws_setIbuf (s : State) (v : Memory) : (s.setIbuf v).draws = s.draws := rfl

/-! ### After writing `obuf` -/

@[simp] theorem State.x_setObuf (s : State) (v : Memory) : (s.setObuf v).x = s.x := rfl
@[simp] theorem State.err_setObuf (s : State) (v : Memory) : (s.setObuf v).err = s.err := rfl
@[simp] theorem State.errInfo_setObuf (s : State) (v : Memory) : (s.setObuf v).errInfo = s.errInfo := rfl
@[simp] theorem State.lzc_setObuf (s : State) (v : Memory) : (s.setObuf v).lzc = s.lzc := rfl
@[simp] theorem State.snap_setObuf (s : State) (v : Memory) : (s.setObuf v).snap = s.snap := rfl
@[simp] theorem State.snapValid_setObuf (s : State) (v : Memory) : (s.setObuf v).snapValid = s.snapValid := rfl
@[simp] theorem State.lzd_setObuf (s : State) (v : Memory) : (s.setObuf v).lzd = s.lzd := rfl
@[simp] theorem State.ibuf_setObuf (s : State) (v : Memory) : (s.setObuf v).ibuf = s.ibuf := rfl
@[simp] theorem State.obuf_setObuf (s : State) (v : Memory) : (s.setObuf v).obuf = v := rfl
@[simp] theorem State.pool_setObuf (s : State) (v : Memory) : (s.setObuf v).pool = s.pool := rfl
@[simp] theorem State.pix_setObuf (s : State) (v : Memory) : (s.setObuf v).pix = s.pix := rfl
@[simp] theorem State.cfg_setObuf (s : State) (v : Memory) : (s.setObuf v).cfg = s.cfg := rfl
@[simp] theorem State.phase_setObuf (s : State) (v : Memory) : (s.setObuf v).phase = s.phase := rfl
@[simp] theorem State.lz_setObuf (s : State) (v : Memory) : (s.setObuf v).lz = s.lz := rfl
@[simp] theorem State.gr_setObuf (s : State) (v : Memory) : (s.setObuf v).gr = s.gr := rfl
@[simp] theorem State.events_setObuf (s : State) (v : Memory) : (s.setObuf v).events = s.events := rfl
@[simp] theorem State.bus_setObuf (s : State) (v : Memory) : (s.setObuf v).bus = s.bus := rfl
@[simp] theorem State.draws_setObuf (s : State) (v : Memory) : (s.setObuf v).draws = s.draws := rfl

/-! ### After writing `pool` -/

@[simp] theorem State.x_setPool (s : State) (v : Memory) : (s.setPool v).x = s.x := rfl
@[simp] theorem State.err_setPool (s : State) (v : Memory) : (s.setPool v).err = s.err := rfl
@[simp] theorem State.errInfo_setPool (s : State) (v : Memory) : (s.setPool v).errInfo = s.errInfo := rfl
@[simp] theorem State.lzc_setPool (s : State) (v : Memory) : (s.setPool v).lzc = s.lzc := rfl
@[simp] theorem State.snap_setPool (s : State) (v : Memory) : (s.setPool v).snap = s.snap := rfl
@[simp] theorem State.snapValid_setPool (s : State) (v : Memory) : (s.setPool v).snapValid = s.snapValid := rfl
@[simp] theorem State.lzd_setPool (s : State) (v : Memory) : (s.setPool v).lzd = s.lzd := rfl
@[simp] theorem State.ibuf_setPool (s : State) (v : Memory) : (s.setPool v).ibuf = s.ibuf := rfl
@[simp] theorem State.obuf_setPool (s : State) (v : Memory) : (s.setPool v).obuf = s.obuf := rfl
@[simp] theorem State.pool_setPool (s : State) (v : Memory) : (s.setPool v).pool = v := rfl
@[simp] theorem State.pix_setPool (s : State) (v : Memory) : (s.setPool v).pix = s.pix := rfl
@[simp] theorem State.cfg_setPool (s : State) (v : Memory) : (s.setPool v).cfg = s.cfg := rfl
@[simp] theorem State.phase_setPool (s : State) (v : Memory) : (s.setPool v).phase = s.phase := rfl
@[simp] theorem State.lz_setPool (s : State) (v : Memory) : (s.setPool v).lz = s.lz := rfl
@[simp] theorem State.gr_setPool (s : State) (v : Memory) : (s.setPool v).gr = s.gr := rfl
@[simp] theorem State.events_setPool (s : State) (v : Memory) : (s.setPool v).events = s.events := rfl
@[simp] theorem State.bus_setPool (s : State) (v : Memory) : (s.setPool v).bus = s.bus := rfl
@[simp] theorem State.draws_setPool (s : State) (v : Memory) : (s.setPool v).draws = s.draws := rfl

/-! ### After writing `pix` -/

@[simp] theorem State.x_setPix (s : State) (v : Memory) : (s.setPix v).x = s.x := rfl
@[simp] theorem State.err_setPix (s : State) (v : Memory) : (s.setPix v).err = s.err := rfl
@[simp] theorem State.errInfo_setPix (s : State) (v : Memory) : (s.setPix v).errInfo = s.errInfo := rfl
@[simp] theorem State.lzc_setPix (s : State) (v : Memory) : (s.setPix v).lzc = s.lzc := rfl
@[simp] theorem State.snap_setPix (s : State) (v : Memory) : (s.setPix v).snap = s.snap := rfl
@[simp] theorem State.snapValid_setPix (s : State) (v : Memory) : (s.setPix v).snapValid = s.snapValid := rfl
@[simp] theorem State.lzd_setPix (s : State) (v : Memory) : (s.setPix v).lzd = s.lzd := rfl
@[simp] theorem State.ibuf_setPix (s : State) (v : Memory) : (s.setPix v).ibuf = s.ibuf := rfl
@[simp] theorem State.obuf_setPix (s : State) (v : Memory) : (s.setPix v).obuf = s.obuf := rfl
@[simp] theorem State.pool_setPix (s : State) (v : Memory) : (s.setPix v).pool = s.pool := rfl
@[simp] theorem State.pix_setPix (s : State) (v : Memory) : (s.setPix v).pix = v := rfl
@[simp] theorem State.cfg_setPix (s : State) (v : Memory) : (s.setPix v).cfg = s.cfg := rfl
@[simp] theorem State.phase_setPix (s : State) (v : Memory) : (s.setPix v).phase = s.phase := rfl
@[simp] theorem State.lz_setPix (s : State) (v : Memory) : (s.setPix v).lz = s.lz := rfl
@[simp] theorem State.gr_setPix (s : State) (v : Memory) : (s.setPix v).gr = s.gr := rfl
@[simp] theorem State.events_setPix (s : State) (v : Memory) : (s.setPix v).events = s.events := rfl
@[simp] theorem State.bus_setPix (s : State) (v : Memory) : (s.setPix v).bus = s.bus := rfl
@[simp] theorem State.draws_setPix (s : State) (v : Memory) : (s.setPix v).draws = s.draws := rfl

/-! ### After writing `phase` -/

@[simp] theorem State.x_setPhase (s : State) (v : Phase) : (s.setPhase v).x = s.x := rfl
@[simp] theorem State.err_setPhase (s : State) (v : Phase) : (s.setPhase v).err = s.err := rfl
@[simp] theorem State.errInfo_setPhase (s : State) (v : Phase) : (s.setPhase v).errInfo = s.errInfo := rfl
@[simp] theorem State.lzc_setPhase (s : State) (v : Phase) : (s.setPhase v).lzc = s.lzc := rfl
@[simp] theorem State.snap_setPhase (s : State) (v : Phase) : (s.setPhase v).snap = s.snap := rfl
@[simp] theorem State.snapValid_setPhase (s : State) (v : Phase) : (s.setPhase v).snapValid = s.snapValid := rfl
@[simp] theorem State.lzd_setPhase (s : State) (v : Phase) : (s.setPhase v).lzd = s.lzd := rfl
@[simp] theorem State.ibuf_setPhase (s : State) (v : Phase) : (s.setPhase v).ibuf = s.ibuf := rfl
@[simp] theorem State.obuf_setPhase (s : State) (v : Phase) : (s.setPhase v).obuf = s.obuf := rfl
@[simp] theorem State.pool_setPhase (s : State) (v : Phase) : (s.setPhase v).pool = s.pool := rfl
@[simp] theorem State.pix_setPhase (s : State) (v : Phase) : (s.setPhase v).pix = s.pix := rfl
@[simp] theorem State.cfg_setPhase (s : State) (v : Phase) : (s.setPhase v).cfg = s.cfg := rfl
@[simp] theorem State.phase_setPhase (s : State) (v : Phase) : (s.setPhase v).phase = v := rfl
@[simp] theorem State.lz_setPhase (s : State) (v : Phase) : (s.setPhase v).lz = s.lz := rfl
@[simp] theorem State.gr_setPhase (s : State) (v : Phase) : (s.setPhase v).gr = s.gr := rfl
@[simp] theorem State.events_setPhase (s : State) (v : Phase) : (s.setPhase v).events = s.events := rfl
@[simp] theorem State.bus_setPhase (s : State) (v : Phase) : (s.setPhase v).bus = s.bus := rfl
@[simp] theorem State.draws_setPhase (s : State) (v : Phase) : (s.setPhase v).draws = s.draws := rfl

/-! ### After writing `lz` -/

@[simp] theorem State.x_setLz (s : State) (v : LzCursor) : (s.setLz v).x = s.x := rfl
@[simp] theorem State.err_setLz (s : State) (v : LzCursor) : (s.setLz v).err = s.err := rfl
@[simp] theorem State.errInfo_setLz (s : State) (v : LzCursor) : (s.setLz v).errInfo = s.errInfo := rfl
@[simp] theorem State.lzc_setLz (s : State) (v : LzCursor) : (s.setLz v).lzc = s.lzc := rfl
@[simp] theorem State.snap_setLz (s : State) (v : LzCursor) : (s.setLz v).snap = s.snap := rfl
@[simp] theorem State.snapValid_setLz (s : State) (v : LzCursor) : (s.setLz v).snapValid = s.snapValid := rfl
@[simp] theorem State.lzd_setLz (s : State) (v : LzCursor) : (s.setLz v).lzd = s.lzd := rfl
@[simp] theorem State.ibuf_setLz (s : State) (v : LzCursor) : (s.setLz v).ibuf = s.ibuf := rfl
@[simp] theorem State.obuf_setLz (s : State) (v : LzCursor) : (s.setLz v).obuf = s.obuf := rfl
@[simp] theorem State.pool_setLz (s : State) (v : LzCursor) : (s.setLz v).pool = s.pool := rfl
@[simp] theorem State.pix_setLz (s : State) (v : LzCursor) : (s.setLz v).pix = s.pix := rfl
@[simp] theorem State.cfg_setLz (s : State) (v : LzCursor) : (s.setLz v).cfg = s.cfg := rfl
@[simp] theorem State.phase_setLz (s : State) (v : LzCursor) : (s.setLz v).phase = s.phase := rfl
@[simp] theorem State.lz_setLz (s : State) (v : LzCursor) : (s.setLz v).lz = v := rfl
@[simp] theorem State.gr_setLz (s : State) (v : LzCursor) : (s.setLz v).gr = s.gr := rfl
@[simp] theorem State.events_setLz (s : State) (v : LzCursor) : (s.setLz v).events = s.events := rfl
@[simp] theorem State.bus_setLz (s : State) (v : LzCursor) : (s.setLz v).bus = s.bus := rfl
@[simp] theorem State.draws_setLz (s : State) (v : LzCursor) : (s.setLz v).draws = s.draws := rfl

/-! ### After writing `gr` -/

@[simp] theorem State.x_setGr (s : State) (v : GrCursor) : (s.setGr v).x = s.x := rfl
@[simp] theorem State.err_setGr (s : State) (v : GrCursor) : (s.setGr v).err = s.err := rfl
@[simp] theorem State.errInfo_setGr (s : State) (v : GrCursor) : (s.setGr v).errInfo = s.errInfo := rfl
@[simp] theorem State.lzc_setGr (s : State) (v : GrCursor) : (s.setGr v).lzc = s.lzc := rfl
@[simp] theorem State.snap_setGr (s : State) (v : GrCursor) : (s.setGr v).snap = s.snap := rfl
@[simp] theorem State.snapValid_setGr (s : State) (v : GrCursor) : (s.setGr v).snapValid = s.snapValid := rfl
@[simp] theorem State.lzd_setGr (s : State) (v : GrCursor) : (s.setGr v).lzd = s.lzd := rfl
@[simp] theorem State.ibuf_setGr (s : State) (v : GrCursor) : (s.setGr v).ibuf = s.ibuf := rfl
@[simp] theorem State.obuf_setGr (s : State) (v : GrCursor) : (s.setGr v).obuf = s.obuf := rfl
@[simp] theorem State.pool_setGr (s : State) (v : GrCursor) : (s.setGr v).pool = s.pool := rfl
@[simp] theorem State.pix_setGr (s : State) (v : GrCursor) : (s.setGr v).pix = s.pix := rfl
@[simp] theorem State.cfg_setGr (s : State) (v : GrCursor) : (s.setGr v).cfg = s.cfg := rfl
@[simp] theorem State.phase_setGr (s : State) (v : GrCursor) : (s.setGr v).phase = s.phase := rfl
@[simp] theorem State.lz_setGr (s : State) (v : GrCursor) : (s.setGr v).lz = s.lz := rfl
@[simp] theorem State.gr_setGr (s : State) (v : GrCursor) : (s.setGr v).gr = v := rfl
@[simp] theorem State.events_setGr (s : State) (v : GrCursor) : (s.setGr v).events = s.events := rfl
@[simp] theorem State.bus_setGr (s : State) (v : GrCursor) : (s.setGr v).bus = s.bus := rfl
@[simp] theorem State.draws_setGr (s : State) (v : GrCursor) : (s.setGr v).draws = s.draws := rfl

/-! ### After writing `events` -/

@[simp] theorem State.x_setEvents (s : State) (v : List Event) : (s.setEvents v).x = s.x := rfl
@[simp] theorem State.err_setEvents (s : State) (v : List Event) : (s.setEvents v).err = s.err := rfl
@[simp] theorem State.errInfo_setEvents (s : State) (v : List Event) : (s.setEvents v).errInfo = s.errInfo := rfl
@[simp] theorem State.lzc_setEvents (s : State) (v : List Event) : (s.setEvents v).lzc = s.lzc := rfl
@[simp] theorem State.snap_setEvents (s : State) (v : List Event) : (s.setEvents v).snap = s.snap := rfl
@[simp] theorem State.snapValid_setEvents (s : State) (v : List Event) : (s.setEvents v).snapValid = s.snapValid := rfl
@[simp] theorem State.lzd_setEvents (s : State) (v : List Event) : (s.setEvents v).lzd = s.lzd := rfl
@[simp] theorem State.ibuf_setEvents (s : State) (v : List Event) : (s.setEvents v).ibuf = s.ibuf := rfl
@[simp] theorem State.obuf_setEvents (s : State) (v : List Event) : (s.setEvents v).obuf = s.obuf := rfl
@[simp] theorem State.pool_setEvents (s : State) (v : List Event) : (s.setEvents v).pool = s.pool := rfl
@[simp] theorem State.pix_setEvents (s : State) (v : List Event) : (s.setEvents v).pix = s.pix := rfl
@[simp] theorem State.cfg_setEvents (s : State) (v : List Event) : (s.setEvents v).cfg = s.cfg := rfl
@[simp] theorem State.phase_setEvents (s : State) (v : List Event) : (s.setEvents v).phase = s.phase := rfl
@[simp] theorem State.lz_setEvents (s : State) (v : List Event) : (s.setEvents v).lz = s.lz := rfl
@[simp] theorem State.gr_setEvents (s : State) (v : List Event) : (s.setEvents v).gr = s.gr := rfl
@[simp] theorem State.events_setEvents (s : State) (v : List Event) : (s.setEvents v).events = v := rfl
@[simp] theorem State.bus_setEvents (s : State) (v : List Event) : (s.setEvents v).bus = s.bus := rfl
@[simp] theorem State.draws_setEvents (s : State) (v : List Event) : (s.setEvents v).draws = s.draws := rfl

/-! ### After writing `bus` -/

@[simp] theorem State.x_setBus (s : State) (v : Word) : (s.setBus v).x = s.x := rfl
@[simp] theorem State.err_setBus (s : State) (v : Word) : (s.setBus v).err = s.err := rfl
@[simp] theorem State.errInfo_setBus (s : State) (v : Word) : (s.setBus v).errInfo = s.errInfo := rfl
@[simp] theorem State.lzc_setBus (s : State) (v : Word) : (s.setBus v).lzc = s.lzc := rfl
@[simp] theorem State.snap_setBus (s : State) (v : Word) : (s.setBus v).snap = s.snap := rfl
@[simp] theorem State.snapValid_setBus (s : State) (v : Word) : (s.setBus v).snapValid = s.snapValid := rfl
@[simp] theorem State.lzd_setBus (s : State) (v : Word) : (s.setBus v).lzd = s.lzd := rfl
@[simp] theorem State.ibuf_setBus (s : State) (v : Word) : (s.setBus v).ibuf = s.ibuf := rfl
@[simp] theorem State.obuf_setBus (s : State) (v : Word) : (s.setBus v).obuf = s.obuf := rfl
@[simp] theorem State.pool_setBus (s : State) (v : Word) : (s.setBus v).pool = s.pool := rfl
@[simp] theorem State.pix_setBus (s : State) (v : Word) : (s.setBus v).pix = s.pix := rfl
@[simp] theorem State.cfg_setBus (s : State) (v : Word) : (s.setBus v).cfg = s.cfg := rfl
@[simp] theorem State.phase_setBus (s : State) (v : Word) : (s.setBus v).phase = s.phase := rfl
@[simp] theorem State.lz_setBus (s : State) (v : Word) : (s.setBus v).lz = s.lz := rfl
@[simp] theorem State.gr_setBus (s : State) (v : Word) : (s.setBus v).gr = s.gr := rfl
@[simp] theorem State.events_setBus (s : State) (v : Word) : (s.setBus v).events = s.events := rfl
@[simp] theorem State.bus_setBus (s : State) (v : Word) : (s.setBus v).bus = v := rfl
@[simp] theorem State.draws_setBus (s : State) (v : Word) : (s.setBus v).draws = s.draws := rfl

/-! ### After writing `draws` -/

@[simp] theorem State.x_setDraws (s : State) (v : Nat) : (s.setDraws v).x = s.x := rfl
@[simp] theorem State.err_setDraws (s : State) (v : Nat) : (s.setDraws v).err = s.err := rfl
@[simp] theorem State.errInfo_setDraws (s : State) (v : Nat) : (s.setDraws v).errInfo = s.errInfo := rfl
@[simp] theorem State.lzc_setDraws (s : State) (v : Nat) : (s.setDraws v).lzc = s.lzc := rfl
@[simp] theorem State.snap_setDraws (s : State) (v : Nat) : (s.setDraws v).snap = s.snap := rfl
@[simp] theorem State.snapValid_setDraws (s : State) (v : Nat) : (s.setDraws v).snapValid = s.snapValid := rfl
@[simp] theorem State.lzd_setDraws (s : State) (v : Nat) : (s.setDraws v).lzd = s.lzd := rfl
@[simp] theorem State.ibuf_setDraws (s : State) (v : Nat) : (s.setDraws v).ibuf = s.ibuf := rfl
@[simp] theorem State.obuf_setDraws (s : State) (v : Nat) : (s.setDraws v).obuf = s.obuf := rfl
@[simp] theorem State.pool_setDraws (s : State) (v : Nat) : (s.setDraws v).pool = s.pool := rfl
@[simp] theorem State.pix_setDraws (s : State) (v : Nat) : (s.setDraws v).pix = s.pix := rfl
@[simp] theorem State.cfg_setDraws (s : State) (v : Nat) : (s.setDraws v).cfg = s.cfg := rfl
@[simp] theorem State.phase_setDraws (s : State) (v : Nat) : (s.setDraws v).phase = s.phase := rfl
@[simp] theorem State.lz_setDraws (s : State) (v : Nat) : (s.setDraws v).lz = s.lz := rfl
@[simp] theorem State.gr_setDraws (s : State) (v : Nat) : (s.setDraws v).gr = s.gr := rfl
@[simp] theorem State.events_setDraws (s : State) (v : Nat) : (s.setDraws v).events = s.events := rfl
@[simp] theorem State.bus_setDraws (s : State) (v : Nat) : (s.setDraws v).bus = s.bus := rfl
@[simp] theorem State.draws_setDraws (s : State) (v : Nat) : (s.setDraws v).draws = v := rfl

/-! ### Writing a field twice keeps the second value -/

@[simp] theorem State.setX_setX (s : State) (v w : Regs) : (s.setX v).setX w = s.setX w := rfl
@[simp] theorem State.setObuf_setObuf (s : State) (v w : Memory) : (s.setObuf v).setObuf w = s.setObuf w := rfl
@[simp] theorem State.setPix_setPix (s : State) (v w : Memory) : (s.setPix v).setPix w = s.setPix w := rfl
@[simp] theorem State.setLz_setLz (s : State) (v w : LzCursor) : (s.setLz v).setLz w = s.setLz w := rfl
@[simp] theorem State.setGr_setGr (s : State) (v w : GrCursor) : (s.setGr v).setGr w = s.setGr w := rfl
@[simp] theorem State.setLzd_setLzd (s : State) (v w : Lzd) : (s.setLzd v).setLzd w = s.setLzd w := rfl

/-! ### Writing a field with its own value, and order of updates -/

@[simp] theorem State.setPix_self (s : State) : s.setPix s.pix = s := rfl
@[simp] theorem State.setObuf_self (s : State) : s.setObuf s.obuf = s := rfl
@[simp] theorem State.setLzd_self (s : State) : s.setLzd s.lzd = s := rfl
@[simp] theorem State.setLz_self (s : State) : s.setLz s.lz = s := rfl
theorem State.setObuf_setLzd (s : State) (m : Memory) (d : Lzd) :
    (s.setObuf m).setLzd d = (s.setLzd d).setObuf m := rfl
theorem State.setLz_setLzd (s : State) (c : LzCursor) (d : Lzd) : (s.setLz c).setLzd d = (s.setLzd d).setLz c := rfl
theorem State.setLz_setObuf (s : State) (c : LzCursor) (m : Memory) :
    (s.setLz c).setObuf m = (s.setObuf m).setLz c := rfl

/-! ### Registers -/

/-- Reading the register just written gives the value. -/
@[simp] theorem Regs.read_write_same (x : Regs) (r : Reg) (v : Word) : (x.write r v).read r = v := by
  cases r <;> rfl

/-- Writing a register leaves every other one alone. -/
theorem Regs.read_write_other (x : Regs) (r q : Reg) (v : Word) (h : q ≠ r) : (x.write r v).read q = x.read q := by
  cases r <;> cases q <;> first | rfl | exact absurd rfl h

@[simp] theorem Regs.read_zero (r : Reg) : Regs.zero.read r = 0#32 := by cases r <;> rfl

@[simp] theorem State.inLen_of_setOutLen (s : State) (v : Word) : (s.setOutLen v).x.inLen = s.x.inLen := rfl
@[simp] theorem State.outLen_of_setOutLen (s : State) (v : Word) : (s.setOutLen v).x.outLen = v := rfl
@[simp] theorem State.mark_of_setOutLen (s : State) (v : Word) : (s.setOutLen v).x.mark = s.x.mark := rfl
@[simp] theorem State.pixBase_of_setOutLen (s : State) (v : Word) : (s.setOutLen v).x.pixBase = s.x.pixBase := rfl
@[simp] theorem State.pixCount_of_setOutLen (s : State) (v : Word) : (s.setOutLen v).x.pixCount = s.x.pixCount := rfl
@[simp] theorem State.chan_of_setOutLen (s : State) (v : Word) : (s.setOutLen v).x.chan = s.x.chan := rfl
@[simp] theorem State.first_of_setOutLen (s : State) (v : Word) : (s.setOutLen v).x.first = s.x.first := rfl
@[simp] theorem State.poolLen_of_setOutLen (s : State) (v : Word) : (s.setOutLen v).x.poolLen = s.x.poolLen := rfl
@[simp] theorem State.pkA_of_setOutLen (s : State) (v : Word) : (s.setOutLen v).x.pkA = s.x.pkA := rfl
@[simp] theorem State.pkB_of_setOutLen (s : State) (v : Word) : (s.setOutLen v).x.pkB = s.x.pkB := rfl
@[simp] theorem State.pkC_of_setOutLen (s : State) (v : Word) : (s.setOutLen v).x.pkC = s.x.pkC := rfl
@[simp] theorem State.pkY_of_setOutLen (s : State) (v : Word) : (s.setOutLen v).x.pkY = s.x.pkY := rfl
@[simp] theorem State.err_setOutLen (s : State) (v : Word) : (s.setOutLen v).err = s.err := rfl
@[simp] theorem State.errInfo_setOutLen (s : State) (v : Word) : (s.setOutLen v).errInfo = s.errInfo := rfl
@[simp] theorem State.lzc_setOutLen (s : State) (v : Word) : (s.setOutLen v).lzc = s.lzc := rfl
@[simp] theorem State.snap_setOutLen (s : State) (v : Word) : (s.setOutLen v).snap = s.snap := rfl
@[simp] theorem State.snapValid_setOutLen (s : State) (v : Word) : (s.setOutLen v).snapValid = s.snapValid := rfl
@[simp] theorem State.lzd_setOutLen (s : State) (v : Word) : (s.setOutLen v).lzd = s.lzd := rfl
@[simp] theorem State.ibuf_setOutLen (s : State) (v : Word) : (s.setOutLen v).ibuf = s.ibuf := rfl
@[simp] theorem State.obuf_setOutLen (s : State) (v : Word) : (s.setOutLen v).obuf = s.obuf := rfl
@[simp] theorem State.pool_setOutLen (s : State) (v : Word) : (s.setOutLen v).pool = s.pool := rfl
@[simp] theorem State.pix_setOutLen (s : State) (v : Word) : (s.setOutLen v).pix = s.pix := rfl
@[simp] theorem State.cfg_setOutLen (s : State) (v : Word) : (s.setOutLen v).cfg = s.cfg := rfl
@[simp] theorem State.phase_setOutLen (s : State) (v : Word) : (s.setOutLen v).phase = s.phase := rfl
@[simp] theorem State.lz_setOutLen (s : State) (v : Word) : (s.setOutLen v).lz = s.lz := rfl
@[simp] theorem State.gr_setOutLen (s : State) (v : Word) : (s.setOutLen v).gr = s.gr := rfl
@[simp] theorem State.events_setOutLen (s : State) (v : Word) : (s.setOutLen v).events = s.events := rfl
@[simp] theorem State.bus_setOutLen (s : State) (v : Word) : (s.setOutLen v).bus = s.bus := rfl
@[simp] theorem State.draws_setOutLen (s : State) (v : Word) : (s.setOutLen v).draws = s.draws := rfl

@[simp] theorem State.inLen_of_setMark (s : State) (v : Word) : (s.setMark v).x.inLen = s.x.inLen := rfl
@[simp] theorem State.outLen_of_setMark (s : State) (v : Word) : (s.setMark v).x.outLen = s.x.outLen := rfl
@[simp] theorem State.mark_of_setMark (s : State) (v : Word) : (s.setMark v).x.mark = v := rfl
@[simp] theorem State.pixBase_of_setMark (s : State) (v : Word) : (s.setMark v).x.pixBase = s.x.pixBase := rfl
@[simp] theorem State.pixCount_of_setMark (s : State) (v : Word) : (s.setMark v).x.pixCount = s.x.pixCount := rfl
@[simp] theorem State.chan_of_setMark (s : State) (v : Word) : (s.setMark v).x.chan = s.x.chan := rfl
@[simp] theorem State.first_of_setMark (s : State) (v : Word) : (s.setMark v).x.first = s.x.first := rfl
@[simp] theorem State.poolLen_of_setMark (s : State) (v : Word) : (s.setMark v).x.poolLen = s.x.poolLen := rfl
@[simp] theorem State.pkA_of_setMark (s : State) (v : Word) : (s.setMark v).x.pkA = s.x.pkA := rfl
@[simp] theorem State.pkB_of_setMark (s : State) (v : Word) : (s.setMark v).x.pkB = s.x.pkB := rfl
@[simp] theorem State.pkC_of_setMark (s : State) (v : Word) : (s.setMark v).x.pkC = s.x.pkC := rfl
@[simp] theorem State.pkY_of_setMark (s : State) (v : Word) : (s.setMark v).x.pkY = s.x.pkY := rfl
@[simp] theorem State.err_setMark (s : State) (v : Word) : (s.setMark v).err = s.err := rfl
@[simp] theorem State.errInfo_setMark (s : State) (v : Word) : (s.setMark v).errInfo = s.errInfo := rfl
@[simp] theorem State.lzc_setMark (s : State) (v : Word) : (s.setMark v).lzc = s.lzc := rfl
@[simp] theorem State.snap_setMark (s : State) (v : Word) : (s.setMark v).snap = s.snap := rfl
@[simp] theorem State.snapValid_setMark (s : State) (v : Word) : (s.setMark v).snapValid = s.snapValid := rfl
@[simp] theorem State.lzd_setMark (s : State) (v : Word) : (s.setMark v).lzd = s.lzd := rfl
@[simp] theorem State.ibuf_setMark (s : State) (v : Word) : (s.setMark v).ibuf = s.ibuf := rfl
@[simp] theorem State.obuf_setMark (s : State) (v : Word) : (s.setMark v).obuf = s.obuf := rfl
@[simp] theorem State.pool_setMark (s : State) (v : Word) : (s.setMark v).pool = s.pool := rfl
@[simp] theorem State.pix_setMark (s : State) (v : Word) : (s.setMark v).pix = s.pix := rfl
@[simp] theorem State.cfg_setMark (s : State) (v : Word) : (s.setMark v).cfg = s.cfg := rfl
@[simp] theorem State.phase_setMark (s : State) (v : Word) : (s.setMark v).phase = s.phase := rfl
@[simp] theorem State.lz_setMark (s : State) (v : Word) : (s.setMark v).lz = s.lz := rfl
@[simp] theorem State.gr_setMark (s : State) (v : Word) : (s.setMark v).gr = s.gr := rfl
@[simp] theorem State.events_setMark (s : State) (v : Word) : (s.setMark v).events = s.events := rfl
@[simp] theorem State.bus_setMark (s : State) (v : Word) : (s.setMark v).bus = s.bus := rfl
@[simp] theorem State.draws_setMark (s : State) (v : Word) : (s.setMark v).draws = s.draws := rfl

@[simp] theorem State.inLen_of_setPkY (s : State) (v : Word) : (s.setPkY v).x.inLen = s.x.inLen := rfl
@[simp] theorem State.outLen_of_setPkY (s : State) (v : Word) : (s.setPkY v).x.outLen = s.x.outLen := rfl
@[simp] theorem State.mark_of_setPkY (s : State) (v : Word) : (s.setPkY v).x.mark = s.x.mark := rfl
@[simp] theorem State.pixBase_of_setPkY (s : State) (v : Word) : (s.setPkY v).x.pixBase = s.x.pixBase := rfl
@[simp] theorem State.pixCount_of_setPkY (s : State) (v : Word) : (s.setPkY v).x.pixCount = s.x.pixCount := rfl
@[simp] theorem State.chan_of_setPkY (s : State) (v : Word) : (s.setPkY v).x.chan = s.x.chan := rfl
@[simp] theorem State.first_of_setPkY (s : State) (v : Word) : (s.setPkY v).x.first = s.x.first := rfl
@[simp] theorem State.poolLen_of_setPkY (s : State) (v : Word) : (s.setPkY v).x.poolLen = s.x.poolLen := rfl
@[simp] theorem State.pkA_of_setPkY (s : State) (v : Word) : (s.setPkY v).x.pkA = s.x.pkA := rfl
@[simp] theorem State.pkB_of_setPkY (s : State) (v : Word) : (s.setPkY v).x.pkB = s.x.pkB := rfl
@[simp] theorem State.pkC_of_setPkY (s : State) (v : Word) : (s.setPkY v).x.pkC = s.x.pkC := rfl
@[simp] theorem State.pkY_of_setPkY (s : State) (v : Word) : (s.setPkY v).x.pkY = v := rfl
@[simp] theorem State.err_setPkY (s : State) (v : Word) : (s.setPkY v).err = s.err := rfl
@[simp] theorem State.errInfo_setPkY (s : State) (v : Word) : (s.setPkY v).errInfo = s.errInfo := rfl
@[simp] theorem State.lzc_setPkY (s : State) (v : Word) : (s.setPkY v).lzc = s.lzc := rfl
@[simp] theorem State.snap_setPkY (s : State) (v : Word) : (s.setPkY v).snap = s.snap := rfl
@[simp] theorem State.snapValid_setPkY (s : State) (v : Word) : (s.setPkY v).snapValid = s.snapValid := rfl
@[simp] theorem State.lzd_setPkY (s : State) (v : Word) : (s.setPkY v).lzd = s.lzd := rfl
@[simp] theorem State.ibuf_setPkY (s : State) (v : Word) : (s.setPkY v).ibuf = s.ibuf := rfl
@[simp] theorem State.obuf_setPkY (s : State) (v : Word) : (s.setPkY v).obuf = s.obuf := rfl
@[simp] theorem State.pool_setPkY (s : State) (v : Word) : (s.setPkY v).pool = s.pool := rfl
@[simp] theorem State.pix_setPkY (s : State) (v : Word) : (s.setPkY v).pix = s.pix := rfl
@[simp] theorem State.cfg_setPkY (s : State) (v : Word) : (s.setPkY v).cfg = s.cfg := rfl
@[simp] theorem State.phase_setPkY (s : State) (v : Word) : (s.setPkY v).phase = s.phase := rfl
@[simp] theorem State.lz_setPkY (s : State) (v : Word) : (s.setPkY v).lz = s.lz := rfl
@[simp] theorem State.gr_setPkY (s : State) (v : Word) : (s.setPkY v).gr = s.gr := rfl
@[simp] theorem State.events_setPkY (s : State) (v : Word) : (s.setPkY v).events = s.events := rfl
@[simp] theorem State.bus_setPkY (s : State) (v : Word) : (s.setPkY v).bus = s.bus := rfl
@[simp] theorem State.draws_setPkY (s : State) (v : Word) : (s.setPkY v).draws = s.draws := rfl

end Sys2Proof.Machine
end

