-- ==== Sys2Proof/Laws/Memory.lean ====
section
/-! SUPPORT. The laws of sparse arrays and buffer memories: read after write, and that every memory operation keeps
the canonical form. -/

namespace Sys2Proof.Machine

/-! ## Sparse arrays -/

section Tables
variable {α : Type}

@[simp] theorem tabFind_put_same (l : List (Nat × α)) (a : Nat) (v : α) : tabFind (tabPut l a v) a = some v := by
  induction l with
  | nil => simp [tabPut, tabFind]
  | cons e rest ih =>
    obtain ⟨k, w⟩ := e
    by_cases h : k = a
    · simp [tabPut, tabFind, h]
    · by_cases h2 : a < k
      · simp [tabPut, tabFind, h, h2]
      · simp [tabPut, tabFind, h, h2, ih]

theorem tabFind_put_other (l : List (Nat × α)) (a b : Nat) (v : α) (hb : b ≠ a) :
    tabFind (tabPut l a v) b = tabFind l b := by
  induction l with
  | nil => simp [tabPut, tabFind, hb.symm]
  | cons e rest ih =>
    obtain ⟨k, w⟩ := e
    by_cases h : k = a
    · subst h
      simp [tabPut, tabFind, hb.symm]
    · by_cases h2 : a < k
      · simp [tabPut, tabFind, h, h2, hb.symm]
      · simp only [tabPut, h, h2, if_false, tabFind, ih]

@[simp] theorem tabFind_erase_same (l : List (Nat × α)) (a : Nat) : tabFind (tabErase l a) a = none := by
  induction l with
  | nil => rfl
  | cons e rest ih =>
    obtain ⟨k, w⟩ := e
    by_cases h : k = a <;> simp [tabErase, tabFind, h, ih]

theorem tabFind_erase_other (l : List (Nat × α)) (a b : Nat) (hb : b ≠ a) :
    tabFind (tabErase l a) b = tabFind l b := by
  induction l with
  | nil => rfl
  | cons e rest ih =>
    obtain ⟨k, w⟩ := e
    by_cases h : k = a
    · subst h
      simp [tabErase, tabFind, hb.symm, ih]
    · simp only [tabErase, h, if_false, tabFind, ih]

@[simp] theorem tabGet_set_same [DecidableEq α] (d : Nat → α) (l : List (Nat × α)) (a : Nat) (v : α) :
    tabGet d (tabSet d l a v) a = v := by
  by_cases h : v = d a <;> simp [tabGet, tabSet, h]

theorem tabGet_set_other [DecidableEq α] (d : Nat → α) (l : List (Nat × α)) (a b : Nat) (v : α) (hb : b ≠ a) :
    tabGet d (tabSet d l a v) b = tabGet d l b := by
  by_cases h : v = d a
  · simp [tabGet, tabSet, h, tabFind_erase_other l a b hb]
  · simp [tabGet, tabSet, h, tabFind_put_other l a b v hb]

theorem tabGet_set [DecidableEq α] (d : Nat → α) (l : List (Nat × α)) (a b : Nat) (v : α) :
    tabGet d (tabSet d l a v) b = if b = a then v else tabGet d l b := by
  by_cases h : b = a
  · subst h
    simp
  · simp [h, tabGet_set_other d l a b v h]

@[simp] theorem tabGet_nil (d : Nat → α) (a : Nat) : tabGet d [] a = d a := rfl

/-! ### The canonical form -/

theorem mem_tabPut (l : List (Nat × α)) (a : Nat) (v : α) (e : Nat × α) (he : e ∈ tabPut l a v) :
    e = (a, v) ∨ e ∈ l := by
  induction l with
  | nil => simpa [tabPut] using he
  | cons f rest ih =>
    obtain ⟨k, w⟩ := f
    simp only [tabPut] at he
    split at he
    · simp only [List.mem_cons] at he ⊢
      tauto
    · split at he
      · simpa using he
      · simp only [List.mem_cons] at he ⊢
        rcases he with he | he
        · exact .inr (.inl he)
        · exact (ih he).imp id .inr

theorem mem_tabErase (l : List (Nat × α)) (a : Nat) (e : Nat × α) (he : e ∈ tabErase l a) : e ∈ l := by
  induction l with
  | nil => exact he
  | cons f rest ih =>
    obtain ⟨k, w⟩ := f
    simp only [tabErase] at he
    split at he
    · exact List.mem_cons_of_mem _ (ih he)
    · simp only [List.mem_cons] at he ⊢
      exact he.imp id ih

theorem tabSorted_cons (e : Nat × α) (l : List (Nat × α)) :
    tabSorted (e :: l) ↔ (∀ f ∈ l, e.1 < f.1) ∧ tabSorted l := by
  simp [tabSorted]

theorem tabSorted_put (l : List (Nat × α)) (a : Nat) (v : α) (h : tabSorted l) : tabSorted (tabPut l a v) := by
  induction l with
  | nil => simp [tabPut, tabSorted]
  | cons e rest ih =>
    obtain ⟨k, w⟩ := e
    rw [tabSorted_cons] at h
    simp only [tabPut]
    split
    · next hk =>
      subst hk
      rw [tabSorted_cons]
      exact h
    · next hk =>
      split
      · next hlt =>
        rw [tabSorted_cons, tabSorted_cons]
        refine ⟨fun f hf => ?_, h⟩
        rcases List.mem_cons.mp hf with rfl | hf
        · exact hlt
        · exact lt_trans hlt (h.1 f hf)
      · next hlt =>
        rw [tabSorted_cons]
        refine ⟨fun f hf => ?_, ih h.2⟩
        rcases mem_tabPut rest a v f hf with rfl | hf
        · simp only
          omega
        · exact h.1 f hf

theorem tabSorted_erase (l : List (Nat × α)) (a : Nat) (h : tabSorted l) : tabSorted (tabErase l a) := by
  induction l with
  | nil => exact h
  | cons e rest ih =>
    obtain ⟨k, w⟩ := e
    rw [tabSorted_cons] at h
    simp only [tabErase]
    split
    · exact ih h.2
    · rw [tabSorted_cons]
      exact ⟨fun f hf => h.1 f (mem_tabErase rest a f hf), ih h.2⟩

theorem fst_ne_of_mem_tabErase (l : List (Nat × α)) (a : Nat) (e : Nat × α) (he : e ∈ tabErase l a) : e.1 ≠ a := by
  induction l with
  | nil => simp [tabErase] at he
  | cons f rest ih =>
    obtain ⟨k, w⟩ := f
    simp only [tabErase] at he
    split at he
    · exact ih he
    · next hk =>
      rcases List.mem_cons.mp he with rfl | he
      · exact hk
      · exact ih he

/-- A write in range keeps an array's canonical form. -/
theorem tabCanon_set [DecidableEq α] (d : Nat → α) (n : Nat) (l : List (Nat × α)) (a : Nat) (v : α) (ha : a < n)
    (h : tabCanon d n l) : tabCanon d n (tabSet d l a v) := by
  by_cases hv : v = d a
  · rw [tabSet, if_pos hv]
    exact ⟨tabSorted_erase l a h.1, fun e he => h.2 e (mem_tabErase l a e he)⟩
  · rw [tabSet, if_neg hv]
    refine ⟨tabSorted_put l a v h.1, fun e he => ?_⟩
    rcases mem_tabPut l a v e he with rfl | he
    · exact ⟨ha, hv⟩
    · exact h.2 e he

theorem tabOfFn_zero [DecidableEq α] (d f : Nat → α) : tabOfFn d 0 f = [] := by
  unfold tabOfFn
  rfl

theorem tabOfFn_succ [DecidableEq α] (d : Nat → α) (n : Nat) (f : Nat → α) :
    tabOfFn d (n + 1) f = tabOfFn d n f ++ if f n = d n then [] else [(n, f n)] := by
  unfold tabOfFn
  rw [List.range_succ, List.filterMap_append]
  congr 1
  by_cases h : f n = d n <;> simp [h]

theorem mem_tabOfFn [DecidableEq α] (d : Nat → α) (n : Nat) (f : Nat → α) (e : Nat × α) (he : e ∈ tabOfFn d n f) :
    e.1 < n ∧ e.2 = f e.1 ∧ e.2 ≠ d e.1 := by
  unfold tabOfFn at he
  simp only [List.mem_filterMap, List.mem_range] at he
  obtain ⟨i, hi, hif⟩ := he
  by_cases h : f i = d i
  · simp [h] at hif
  · simp only [h, if_false, Option.some.injEq] at hif
    subst hif
    exact ⟨hi, rfl, h⟩

/-- An array built entry by entry is canonical. -/
theorem tabCanon_ofFn [DecidableEq α] (d : Nat → α) (n : Nat) (f : Nat → α) : tabCanon d n (tabOfFn d n f) := by
  refine ⟨?_, fun e he => ⟨(mem_tabOfFn d n f e he).1, (mem_tabOfFn d n f e he).2.2⟩⟩
  induction n with
  | zero => simp [tabOfFn_zero, tabSorted]
  | succ n ih =>
    rw [tabOfFn_succ]
    split
    · simpa using ih
    · simp only [tabSorted, List.map_append, List.map_cons, List.map_nil, List.pairwise_append]
      refine ⟨ih, by simp, fun a ha b hb => ?_⟩
      simp only [List.mem_map] at ha
      obtain ⟨e, he, rfl⟩ := ha
      simp only [List.mem_singleton] at hb
      rw [hb]
      exact (mem_tabOfFn d n f e he).1

theorem tabFind_append (l m : List (Nat × α)) (a : Nat) :
    tabFind (l ++ m) a = (tabFind l a).or (tabFind m a) := by
  induction l with
  | nil => simp [tabFind]
  | cons e rest ih =>
    obtain ⟨k, w⟩ := e
    by_cases h : k = a <;> simp [tabFind, h, ih]

theorem tabFind_eq_none (l : List (Nat × α)) (a : Nat) (h : ∀ e ∈ l, e.1 ≠ a) : tabFind l a = none := by
  induction l with
  | nil => rfl
  | cons e rest ih =>
    obtain ⟨k, w⟩ := e
    have hk : k ≠ a := h (k, w) (by simp)
    simp only [tabFind, hk, if_false]
    exact ih fun e he => h e (List.mem_cons_of_mem _ he)

/-- An array built entry by entry holds those entries, and its unlisted content beyond them. -/
theorem tabGet_ofFn [DecidableEq α] (d : Nat → α) (n : Nat) (f : Nat → α) (a : Nat) :
    tabGet d (tabOfFn d n f) a = if a < n then f a else d a := by
  induction n with
  | zero => simp [tabOfFn_zero]
  | succ n ih =>
    unfold tabGet at ih ⊢
    rw [tabOfFn_succ, tabFind_append]
    by_cases han : a = n
    · have hnone : tabFind (tabOfFn d n f) a = none :=
        tabFind_eq_none _ _ fun e he => han ▸ ne_of_lt (mem_tabOfFn d n f e he).1
      rw [hnone, han]
      by_cases hf : f n = d n <;> simp [hf, tabFind]
    · have hright : tabFind (if f n = d n then [] else [(n, f n)]) a = none := by
        split <;> simp [tabFind, Ne.symm han]
      rw [hright, Option.or_none, ih]
      have : a < n + 1 ↔ a < n := by omega
      simp only [this]

end Tables

/-! ## Buffer memories -/

@[simp] theorem Memory.read_write_same (sp : Space) (m : Memory) (a : Nat) (b : Byte) :
    (m.write a b).read sp a = b := by simp [Memory.read, Memory.write]

theorem Memory.read_write_other (sp : Space) (m : Memory) (a c : Nat) (b : Byte) (h : c ≠ a) :
    (m.write a b).read sp c = m.read sp c := by simp [Memory.read, Memory.write, tabFind_put_other m.cells a c b h]

/-- A write keeps the canonical form of a memory. -/
theorem Memory.wf_write (m : Memory) (a : Nat) (b : Byte) (h : m.wf) : (m.write a b).wf := tabSorted_put m.cells a b h

/-! ## The buffers of a state -/

@[simp] theorem State.mem_setMem_same (s : State) (sp : Space) (m : Memory) : (s.setMem sp m).mem sp = m := by
  cases sp <;> rfl

theorem State.mem_setMem_other (s : State) (sp sq : Space) (m : Memory) (h : sq ≠ sp) :
    (s.setMem sp m).mem sq = s.mem sq := by
  cases sp <;> cases sq <;> first | rfl | exact absurd rfl h

@[simp] theorem State.x_setMem (s : State) (sp : Space) (m : Memory) : (s.setMem sp m).x = s.x := by cases sp <;> rfl
@[simp] theorem State.err_setMem (s : State) (sp : Space) (m : Memory) : (s.setMem sp m).err = s.err := by
  cases sp <;> rfl
@[simp] theorem State.errInfo_setMem (s : State) (sp : Space) (m : Memory) : (s.setMem sp m).errInfo = s.errInfo := by
  cases sp <;> rfl
@[simp] theorem State.lzc_setMem (s : State) (sp : Space) (m : Memory) : (s.setMem sp m).lzc = s.lzc := by
  cases sp <;> rfl
@[simp] theorem State.snap_setMem (s : State) (sp : Space) (m : Memory) : (s.setMem sp m).snap = s.snap := by
  cases sp <;> rfl
@[simp] theorem State.snapValid_setMem (s : State) (sp : Space) (m : Memory) :
    (s.setMem sp m).snapValid = s.snapValid := by cases sp <;> rfl
@[simp] theorem State.lzd_setMem (s : State) (sp : Space) (m : Memory) : (s.setMem sp m).lzd = s.lzd := by
  cases sp <;> rfl
@[simp] theorem State.cfg_setMem (s : State) (sp : Space) (m : Memory) : (s.setMem sp m).cfg = s.cfg := by
  cases sp <;> rfl
@[simp] theorem State.phase_setMem (s : State) (sp : Space) (m : Memory) : (s.setMem sp m).phase = s.phase := by
  cases sp <;> rfl
@[simp] theorem State.lz_setMem (s : State) (sp : Space) (m : Memory) : (s.setMem sp m).lz = s.lz := by
  cases sp <;> rfl
@[simp] theorem State.gr_setMem (s : State) (sp : Space) (m : Memory) : (s.setMem sp m).gr = s.gr := by
  cases sp <;> rfl
@[simp] theorem State.events_setMem (s : State) (sp : Space) (m : Memory) : (s.setMem sp m).events = s.events := by
  cases sp <;> rfl
@[simp] theorem State.bus_setMem (s : State) (sp : Space) (m : Memory) : (s.setMem sp m).bus = s.bus := by
  cases sp <;> rfl
@[simp] theorem State.draws_setMem (s : State) (sp : Space) (m : Memory) : (s.setMem sp m).draws = s.draws := by
  cases sp <;> rfl

/-- Reading the byte just written gives it. -/
@[simp] theorem State.readByte_writeByte_same (s : State) (sp : Space) (a : Nat) (b : Byte) :
    (s.writeByte sp a b).readByte sp a = b := by simp [State.readByte, State.writeByte]

/-- A write leaves every other byte of its space alone. -/
theorem State.readByte_writeByte_other (s : State) (sp : Space) (a c : Nat) (b : Byte) (h : c ≠ a) :
    (s.writeByte sp a b).readByte sp c = s.readByte sp c := by
  simp [State.readByte, State.writeByte, Memory.read_write_other sp (s.mem sp) a c b h]

/-- A write leaves every byte of every other space alone. -/
theorem State.readByte_writeByte_space (s : State) (sp sq : Space) (a c : Nat) (b : Byte) (h : sq ≠ sp) :
    (s.writeByte sp a b).readByte sq c = s.readByte sq c := by
  simp [State.readByte, State.writeByte, State.mem_setMem_other s sp sq _ h]

/-- Everything a byte write can do to what a byte read gives. -/
theorem State.readByte_writeByte (s : State) (sp sq : Space) (a c : Nat) (b : Byte) :
    (s.writeByte sp a b).readByte sq c = if sq = sp ∧ c = a then b else s.readByte sq c := by
  by_cases h : sq = sp
  · subst h
    by_cases hc : c = a
    · subst hc
      simp
    · simp [hc, State.readByte_writeByte_other s sq a c b hc]
  · simp [h, State.readByte_writeByte_space s sp sq a c b h]

/-- A byte write changes one memory and nothing else. -/
theorem State.writeByte_eq (s : State) (sp : Space) (a : Nat) (b : Byte) :
    s.writeByte sp a b = s.setMem sp ((s.mem sp).write a b) := rfl

/-- Setting a memory twice keeps the second. -/
theorem State.setMem_setMem (s : State) (sp : Space) (m n : Memory) :
    (s.setMem sp m).setMem sp n = s.setMem sp n := by cases sp <;> rfl

theorem State.setMem_mem (s : State) (sp : Space) : s.setMem sp (s.mem sp) = s := by cases sp <;> rfl

/-! ### A byte write changes no other field -/

@[simp] theorem State.x_writeByte (s : State) (sp : Space) (a : Nat) (b : Byte) :
    (s.writeByte sp a b).x = s.x := by rw [State.writeByte, State.x_setMem]

@[simp] theorem State.err_writeByte (s : State) (sp : Space) (a : Nat) (b : Byte) :
    (s.writeByte sp a b).err = s.err := by rw [State.writeByte, State.err_setMem]

@[simp] theorem State.errInfo_writeByte (s : State) (sp : Space) (a : Nat) (b : Byte) :
    (s.writeByte sp a b).errInfo = s.errInfo := by rw [State.writeByte, State.errInfo_setMem]

@[simp] theorem State.lzc_writeByte (s : State) (sp : Space) (a : Nat) (b : Byte) :
    (s.writeByte sp a b).lzc = s.lzc := by rw [State.writeByte, State.lzc_setMem]

@[simp] theorem State.snap_writeByte (s : State) (sp : Space) (a : Nat) (b : Byte) :
    (s.writeByte sp a b).snap = s.snap := by rw [State.writeByte, State.snap_setMem]

@[simp] theorem State.snapValid_writeByte (s : State) (sp : Space) (a : Nat) (b : Byte) :
    (s.writeByte sp a b).snapValid = s.snapValid := by rw [State.writeByte, State.snapValid_setMem]

@[simp] theorem State.lzd_writeByte (s : State) (sp : Space) (a : Nat) (b : Byte) :
    (s.writeByte sp a b).lzd = s.lzd := by rw [State.writeByte, State.lzd_setMem]

@[simp] theorem State.cfg_writeByte (s : State) (sp : Space) (a : Nat) (b : Byte) :
    (s.writeByte sp a b).cfg = s.cfg := by rw [State.writeByte, State.cfg_setMem]

@[simp] theorem State.phase_writeByte (s : State) (sp : Space) (a : Nat) (b : Byte) :
    (s.writeByte sp a b).phase = s.phase := by rw [State.writeByte, State.phase_setMem]

@[simp] theorem State.lz_writeByte (s : State) (sp : Space) (a : Nat) (b : Byte) :
    (s.writeByte sp a b).lz = s.lz := by rw [State.writeByte, State.lz_setMem]

@[simp] theorem State.gr_writeByte (s : State) (sp : Space) (a : Nat) (b : Byte) :
    (s.writeByte sp a b).gr = s.gr := by rw [State.writeByte, State.gr_setMem]

@[simp] theorem State.events_writeByte (s : State) (sp : Space) (a : Nat) (b : Byte) :
    (s.writeByte sp a b).events = s.events := by rw [State.writeByte, State.events_setMem]

@[simp] theorem State.bus_writeByte (s : State) (sp : Space) (a : Nat) (b : Byte) :
    (s.writeByte sp a b).bus = s.bus := by rw [State.writeByte, State.bus_setMem]

@[simp] theorem State.draws_writeByte (s : State) (sp : Space) (a : Nat) (b : Byte) :
    (s.writeByte sp a b).draws = s.draws := by rw [State.writeByte, State.draws_setMem]

/-- A write to `OBUF` is an update of that field. -/
theorem State.writeByte_obuf (s : State) (a : Nat) (b : Byte) :
    s.writeByte .obuf a b = s.setObuf (s.obuf.write a b) := rfl

/-- A lane write is an update of `PIX`. -/
theorem State.writePixLane_eq (s : State) (i k : Nat) (b : Byte) :
    s.writePixLane i k b = s.setPix (s.pix.write (4 * i + k) b) := rfl

/-- A word write is an update of `PIX`. -/
theorem State.writePixWord_frame (s : State) (i : Nat) (v : Word) : ∃ m : Memory, s.writePixWord i v = s.setPix m :=
  ⟨_, rfl⟩

/-- Writing bytes in a row changes one memory and nothing else. -/
theorem State.writeBytes_frame (s : State) (sp : Space) (a : Nat) (bs : List Byte) :
    ∃ m : Memory, s.writeBytes sp a bs = s.setMem sp m := by
  induction bs generalizing s a with
  | nil => exact ⟨s.mem sp, (s.setMem_mem sp).symm⟩
  | cons b rest ih =>
    obtain ⟨m, hm⟩ := ih (s.writeByte sp a b) (a + 1)
    exact ⟨m, by rw [State.writeBytes, hm, State.writeByte_eq, State.setMem_setMem]⟩

/-- What a byte reads as after bytes were written in a row. -/
theorem State.readByte_writeBytes (s : State) (sp : Space) (a : Nat) (bs : List Byte) (c : Nat) :
    (s.writeBytes sp a bs).readByte sp c =
      if h : a ≤ c ∧ c - a < bs.length then bs[c - a]'h.2 else s.readByte sp c := by
  induction bs generalizing s a with
  | nil => simp [State.writeBytes]
  | cons b rest ih =>
    rw [State.writeBytes, ih, State.readByte_writeByte]
    by_cases hca : c = a
    · subst hca
      simp
    · by_cases h1 : a + 1 ≤ c ∧ c - (a + 1) < rest.length
      · have h2 : a ≤ c ∧ c - a < (b :: rest).length := by
          simp only [List.length_cons]
          omega
        rw [dif_pos h1, dif_pos h2]
        have : c - a = (c - (a + 1)) + 1 := by omega
        simp only [this, List.getElem_cons_succ]
      · have h2 : ¬(a ≤ c ∧ c - a < (b :: rest).length) := by
          simp only [List.length_cons]
          omega
        rw [dif_neg h1, dif_neg h2]
        simp [hca]

/-- Bytes written to one space leave the others alone. -/
theorem State.readByte_writeBytes_space (s : State) (sp sq : Space) (a : Nat) (bs : List Byte) (c : Nat)
    (h : sq ≠ sp) : (s.writeBytes sp a bs).readByte sq c = s.readByte sq c := by
  obtain ⟨m, hm⟩ := s.writeBytes_frame sp a bs
  rw [hm, State.readByte, State.mem_setMem_other s sp sq m h, State.readByte]

/-! ## Every memory operation keeps the canonical form -/

/-- Every buffer of the state is in canonical form. -/
abbrev State.memWf (s : State) : Prop := ∀ sp : Space, (s.mem sp).wf

/-- Replacing one memory by a canonical one keeps the state's buffers canonical. -/
theorem State.memWf_setMem (s : State) (sp : Space) (m : Memory) (h : s.memWf) (hm : m.wf) :
    (s.setMem sp m).memWf := by
  intro sq
  by_cases hq : sq = sp
  · subst hq
    simpa using hm
  · rw [State.mem_setMem_other s sp sq m hq]
    exact h sq

theorem State.memWf_writeByte (s : State) (sp : Space) (a : Nat) (b : Byte) (h : s.memWf) :
    (s.writeByte sp a b).memWf := s.memWf_setMem sp _ h (Memory.wf_write _ a b (h sp))

theorem State.memWf_writeBytes (s : State) (sp : Space) (a : Nat) (bs : List Byte) (h : s.memWf) :
    (s.writeBytes sp a bs).memWf := by
  induction bs generalizing s a with
  | nil => exact h
  | cons b rest ih => exact ih _ _ (s.memWf_writeByte sp a b h)

theorem State.memWf_writePixLane (s : State) (i k : Nat) (b : Byte) (h : s.memWf) :
    (s.writePixLane i k b).memWf := s.memWf_writeByte .pix _ b h

theorem State.memWf_writePixWord (s : State) (i : Nat) (v : Word) (h : s.memWf) : (s.writePixWord i v).memWf :=
  State.memWf_writePixLane _ _ _ _ (State.memWf_writePixLane _ _ _ _ (State.memWf_writePixLane _ _ _ _
    (s.memWf_writePixLane i 0 _ h)))

theorem memWf_forgetWords (d : Nat) (whole : Bool) (lane n i : Nat) (s : State) (h : s.memWf) :
    (forgetWords d whole lane n i s).memWf := by
  induction n generalizing i s with
  | zero => exact h
  | succ n ih =>
    refine ih _ _ ?_
    split
    · exact State.memWf_writePixLane _ _ _ _ (State.memWf_writePixLane _ _ _ _ (State.memWf_writePixLane _ _ _ _
        (s.memWf_writePixLane i 0 _ h)))
    · exact s.memWf_writePixLane i lane _ h

/-- The memory of a machine right after power-on is in canonical form, whatever the configuration. -/
theorem powerUp_memWf (cfg : Config) (draw : Nat) : (State.powerUp cfg draw).memWf := by
  intro sp
  cases sp <;> exact List.Pairwise.nil

/-- The memory of the reset state is in canonical form. -/
theorem reset_memWf : State.reset.memWf := powerUp_memWf _ _

end Sys2Proof.Machine
end

