-- ==== Sys2Proof/Laws/Dictionary.lean ====
section
/-! SUPPORT. The laws of the LZC dictionary: reads after writes of its arrays, the canonical form through every
primitive, what the primitives do to the cursor and the text, and the invariant of R31 for a dictionary with nothing
listed. -/

namespace Sys2Proof.Machine

/-! ## Reads after writes -/

@[simp] theorem Lzc.getText_setMap (l : Lzc) (a : Nat) (b : BitVec 16) (v : Option Pos) :
    (l.setMap b v).getText a = l.getText a := rfl
@[simp] theorem Lzc.getText_setPrev (l : Lzc) (a : Nat) (b : Pos) (v : Option Pos) :
    (l.setPrev b v).getText a = l.getText a := rfl
@[simp] theorem Lzc.getText_setNext (l : Lzc) (a : Nat) (b : Pos) (v : Option Pos) :
    (l.setNext b v).getText a = l.getText a := rfl
@[simp] theorem Lzc.getText_setCs (l : Lzc) (a : Nat) (p : Pos) : (l.setCs p).getText a = l.getText a := rfl
@[simp] theorem Lzc.getMap_setText (l : Lzc) (a : BitVec 16) (b : Nat) (v : Byte) :
    (l.setText b v).getMap a = l.getMap a := rfl
@[simp] theorem Lzc.getMap_setPrev (l : Lzc) (a : BitVec 16) (b : Pos) (v : Option Pos) :
    (l.setPrev b v).getMap a = l.getMap a := rfl
@[simp] theorem Lzc.getMap_setNext (l : Lzc) (a : BitVec 16) (b : Pos) (v : Option Pos) :
    (l.setNext b v).getMap a = l.getMap a := rfl
@[simp] theorem Lzc.getMap_setCs (l : Lzc) (a : BitVec 16) (p : Pos) : (l.setCs p).getMap a = l.getMap a := rfl
@[simp] theorem Lzc.getPrev_setText (l : Lzc) (a : Pos) (b : Nat) (v : Byte) :
    (l.setText b v).getPrev a = l.getPrev a := rfl
@[simp] theorem Lzc.getPrev_setMap (l : Lzc) (a : Pos) (b : BitVec 16) (v : Option Pos) :
    (l.setMap b v).getPrev a = l.getPrev a := rfl
@[simp] theorem Lzc.getPrev_setNext (l : Lzc) (a : Pos) (b : Pos) (v : Option Pos) :
    (l.setNext b v).getPrev a = l.getPrev a := rfl
@[simp] theorem Lzc.getPrev_setCs (l : Lzc) (a : Pos) (p : Pos) : (l.setCs p).getPrev a = l.getPrev a := rfl
@[simp] theorem Lzc.getNext_setText (l : Lzc) (a : Pos) (b : Nat) (v : Byte) :
    (l.setText b v).getNext a = l.getNext a := rfl
@[simp] theorem Lzc.getNext_setMap (l : Lzc) (a : Pos) (b : BitVec 16) (v : Option Pos) :
    (l.setMap b v).getNext a = l.getNext a := rfl
@[simp] theorem Lzc.getNext_setPrev (l : Lzc) (a : Pos) (b : Pos) (v : Option Pos) :
    (l.setPrev b v).getNext a = l.getNext a := rfl
@[simp] theorem Lzc.getNext_setCs (l : Lzc) (a : Pos) (p : Pos) : (l.setCs p).getNext a = l.getNext a := rfl
@[simp] theorem Lzc.cs_setText (l : Lzc) (b : Nat) (v : Byte) : (l.setText b v).cs = l.cs := rfl
@[simp] theorem Lzc.cs_setMap (l : Lzc) (b : BitVec 16) (v : Option Pos) : (l.setMap b v).cs = l.cs := rfl
@[simp] theorem Lzc.cs_setPrev (l : Lzc) (b : Pos) (v : Option Pos) : (l.setPrev b v).cs = l.cs := rfl
@[simp] theorem Lzc.cs_setNext (l : Lzc) (b : Pos) (v : Option Pos) : (l.setNext b v).cs = l.cs := rfl
@[simp] theorem Lzc.cs_setCs (l : Lzc) (p : Pos) : (l.setCs p).cs = p := rfl

theorem Lzc.getText_setText (l : Lzc) (a b : Nat) (v : Byte) :
    (l.setText b v).getText a = if a = b then v else l.getText a := tabGet_set resetText l.text b a v

theorem Lzc.getMap_setMap (l : Lzc) (a b : BitVec 16) (v : Option Pos) :
    (l.setMap b v).getMap a = if a = b then v else l.getMap a := by
  have h : a.toNat = b.toNat ↔ a = b := BitVec.toNat_inj
  simp only [Lzc.getMap, Lzc.setMap, tabGet_set, h]

theorem Lzc.getPrev_setPrev (l : Lzc) (a b : Pos) (v : Option Pos) :
    (l.setPrev b v).getPrev a = if a = b then v else l.getPrev a := by
  have h : a.toNat = b.toNat ↔ a = b := BitVec.toNat_inj
  simp only [Lzc.getPrev, Lzc.setPrev, tabGet_set, h]

theorem Lzc.getNext_setNext (l : Lzc) (a b : Pos) (v : Option Pos) :
    (l.setNext b v).getNext a = if a = b then v else l.getNext a := by
  have h : a.toNat = b.toNat ↔ a = b := BitVec.toNat_inj
  simp only [Lzc.getNext, Lzc.setNext, tabGet_set, h]

/-! ## A dictionary with nothing listed (spec/10_state.md R39) -/

@[simp] theorem Lzc.getText_fresh (i : Nat) : Lzc.fresh.getText i = 0#8 := rfl
@[simp] theorem Lzc.getMap_fresh (h : BitVec 16) : Lzc.fresh.getMap h = resetMap h.toNat := rfl
@[simp] theorem Lzc.getPrev_fresh (p : Pos) : Lzc.fresh.getPrev p = resetPrev p.toNat := rfl
@[simp] theorem Lzc.getNext_fresh (p : Pos) : Lzc.fresh.getNext p = resetNext p.toNat := rfl
@[simp] theorem Lzc.cs_fresh : Lzc.fresh.cs = 0#12 := rfl

/-! ## The canonical form through every primitive -/

theorem Lzc.canonical_fresh : Lzc.fresh.Canonical := by
  refine ⟨⟨List.Pairwise.nil, ?_⟩, ⟨List.Pairwise.nil, ?_⟩, ⟨List.Pairwise.nil, ?_⟩, ⟨List.Pairwise.nil, ?_⟩⟩ <;>
    exact fun e he => absurd he (List.not_mem_nil)

theorem Lzc.canonical_setText (l : Lzc) (i : Nat) (c : Byte) (hi : i < 4369) (h : l.Canonical) :
    (l.setText i c).Canonical := ⟨tabCanon_set _ _ _ _ _ hi h.1, h.2⟩

theorem Lzc.canonical_setMap (l : Lzc) (k : BitVec 16) (v : Option Pos) (h : l.Canonical) :
    (l.setMap k v).Canonical := ⟨h.1, tabCanon_set _ _ _ _ _ k.isLt h.2.1, h.2.2⟩

theorem Lzc.canonical_setPrev (l : Lzc) (p : Pos) (v : Option Pos) (h : l.Canonical) :
    (l.setPrev p v).Canonical := ⟨h.1, h.2.1, tabCanon_set _ _ _ _ _ p.isLt h.2.2.1, h.2.2.2⟩

theorem Lzc.canonical_setNext (l : Lzc) (p : Pos) (v : Option Pos) (h : l.Canonical) :
    (l.setNext p v).Canonical := ⟨h.1, h.2.1, h.2.2.1, tabCanon_set _ _ _ _ _ p.isLt h.2.2.2⟩

theorem Lzc.canonical_insert (l : Lzc) (p : Pos) (h : l.Canonical) : (l.insert p).Canonical := by
  unfold Lzc.insert
  split
  · exact l.canonical_setMap _ _ h
  · exact Lzc.canonical_setPrev _ _ _ (Lzc.canonical_setNext _ _ _ (Lzc.canonical_setPrev _ _ _
      (l.canonical_setMap _ _ h)))

theorem Lzc.canonical_unlinkOlder (l : Lzc) (p : Pos) (h : l.Canonical) : (l.unlinkOlder p).Canonical := by
  unfold Lzc.unlinkOlder
  split
  · exact h
  · exact l.canonical_setPrev _ _ h

theorem Lzc.canonical_delete (l : Lzc) (p : Pos) (h : l.Canonical) : (l.delete p).Canonical := by
  unfold Lzc.delete
  split
  · exact Lzc.canonical_setNext _ _ _ (Lzc.canonical_setPrev _ _ _ (Lzc.canonical_setNext _ _ _
      (l.canonical_unlinkOlder p h)))
  · exact Lzc.canonical_setNext _ _ _ (Lzc.canonical_setPrev _ _ _ (Lzc.canonical_setMap _ _ _
      (l.canonical_unlinkOlder p h)))

theorem Lzc.canonical_storeAtCursor (l : Lzc) (c : Byte) (h : l.Canonical) : (l.storeAtCursor c).Canonical := by
  have hcs : l.cs.toNat < 4096 := l.cs.isLt
  unfold Lzc.storeAtCursor
  split
  · exact Lzc.canonical_setText _ _ _ (by omega) (l.canonical_setText _ _ (by omega) h)
  · exact l.canonical_setText _ _ (by omega) h

/-- `PUTBYTE` keeps every array canonical. -/
theorem Lzc.canonical_putByte (l : Lzc) (c : Byte) (h : l.Canonical) : (l.putByte c).Canonical :=
  Lzc.canonical_insert _ _ (Lzc.canonical_insert _ _ (Lzc.canonical_storeAtCursor _ _ (Lzc.canonical_delete _ _
    (l.canonical_delete _ h))))

theorem Lzc.canonical_putBytes (l : Lzc) (cs : List Byte) (h : l.Canonical) : (l.putBytes cs).Canonical := by
  induction cs generalizing l with
  | nil => exact h
  | cons c rest ih => exact ih (l.putByte c) (l.canonical_putByte c h)

/-! ## The cursor and the text -/

@[simp] theorem Lzc.cs_insert (l : Lzc) (p : Pos) : (l.insert p).cs = l.cs := by
  unfold Lzc.insert
  split <;> rfl

@[simp] theorem Lzc.cs_delete (l : Lzc) (p : Pos) : (l.delete p).cs = l.cs := by
  unfold Lzc.delete Lzc.unlinkOlder
  split <;> split <;> rfl

@[simp] theorem Lzc.cs_storeAtCursor (l : Lzc) (c : Byte) : (l.storeAtCursor c).cs = l.cs := by
  unfold Lzc.storeAtCursor
  split <;> rfl

/-- `PUTBYTE` moves the cursor on by one. -/
@[simp] theorem Lzc.cs_putByte (l : Lzc) (c : Byte) : (l.putByte c).cs = l.cs + 1#12 := rfl

@[simp] theorem Lzc.getText_insert (l : Lzc) (p : Pos) (i : Nat) : (l.insert p).getText i = l.getText i := by
  unfold Lzc.insert
  split <;> rfl

@[simp] theorem Lzc.getText_delete (l : Lzc) (p : Pos) (i : Nat) : (l.delete p).getText i = l.getText i := by
  unfold Lzc.delete Lzc.unlinkOlder
  split <;> split <;> rfl

/-- The text after `PUTBYTE`: the byte at the cursor and, below 272, in the mirror (R133). -/
theorem Lzc.getText_putByte (l : Lzc) (c : Byte) (i : Nat) : (l.putByte c).getText i =
    if i = l.cs.toNat ∨ (l.cs.toNat < 272 ∧ i = 4096 + l.cs.toNat) then c else l.getText i := by
  simp only [Lzc.putByte, Lzc.getText_setCs, Lzc.getText_insert, Lzc.storeAtCursor, Lzc.cs_delete]
  by_cases h : l.cs.toNat < 272
  · simp only [h, if_true, Lzc.getText_setText, Lzc.getText_delete, true_and]
    split_ifs <;> first | rfl | tauto
  · simp only [h, if_false, Lzc.getText_setText, Lzc.getText_delete, false_and, or_false]

/-! ## The invariant of R31 for a dictionary with nothing listed -/

theorem Lzc.isChain_empty (cs : Pos) (n k : Nat) (hk : k + n = 4096) :
    Lzc.IsChain ⟨[], [], [], [], cs⟩ (if k < 4096 then some (BitVec.ofNat 12 k) else none)
      ((List.range' k n).map (BitVec.ofNat 12)) := by
  induction n generalizing k with
  | zero => simp [Lzc.IsChain, show ¬k < 4096 by omega]
  | succ n ih =>
    have h := ih (k + 1) (by omega)
    simp only [List.range'_succ, List.map_cons, Lzc.IsChain, if_pos (show k < 4096 by omega), true_and]
    have hnext : Lzc.getNext ⟨[], [], [], [], cs⟩ (BitVec.ofNat 12 k) =
        if k + 1 < 4096 then some (BitVec.ofNat 12 (k + 1)) else none := by
      have hmod : (BitVec.ofNat 12 k).toNat = k := by
        rw [BitVec.toNat_ofNat]
        omega
      simp only [Lzc.getNext, tabGet_nil, resetNext, hmod]
      split_ifs <;> first | rfl | omega
    rw [hnext]
    exact h

theorem Lzc.key_empty (cs p : Pos) : Lzc.key ⟨[], [], [], [], cs⟩ p = 0#16 := by
  simp [Lzc.key, Lzc.getText, resetText, keyOf]

/-- A dictionary with nothing listed satisfies the invariant, wherever its cursor stands. -/
theorem Lzc.ok_empty (cs : Pos) : Lzc.Ok ⟨[], [], [], [], cs⟩ where
  chains h := by
    by_cases h0 : h = 0#16
    · subst h0
      refine ⟨(List.range' 0 4096).map (BitVec.ofNat 12), Lzc.isChain_empty cs 4096 0 rfl, ?_, fun p => ?_⟩
      · refine List.Nodup.map_on ?_ List.nodup_range'
        intro a ha b hb hab
        have ha' := List.mem_range'.mp ha
        have hb' := List.mem_range'.mp hb
        have := congrArg BitVec.toNat hab
        simp only [BitVec.toNat_ofNat] at this
        omega
      · refine ⟨fun _ => Lzc.key_empty cs p, fun _ => List.mem_map.mpr ⟨p.toNat, List.mem_range'_1.mpr ⟨by omega, by omega⟩, ?_⟩⟩
        exact BitVec.ofNat_toNat 12 p |>.trans (by simp)
    · have hn : h.toNat ≠ 0 := fun hn => h0 (BitVec.eq_of_toNat_eq hn)
      refine ⟨[], ?_, List.nodup_nil, fun p => ⟨fun hp => absurd hp List.not_mem_nil, fun hp => ?_⟩⟩
      · simp [Lzc.IsChain, Lzc.getMap, resetMap, hn]
      · exact absurd (hp.symm.trans (Lzc.key_empty cs p)) h0
  mutualLinks p q := by
    have hp : p.toNat < 4096 := p.isLt
    have hq : q.toNat < 4096 := q.isLt
    simp only [Lzc.getNext, Lzc.getPrev, tabGet_nil, resetNext, resetPrev]
    split_ifs with h1 h2 h2
    · simp only [Option.some.injEq, iff_false]
      intro h
      have := congrArg BitVec.toNat h
      rw [BitVec.toNat_ofNat] at this
      omega
    · simp only [Option.some.injEq]
      constructor <;> intro h <;> have := congrArg BitVec.toNat h <;> rw [BitVec.toNat_ofNat] at this <;>
        refine BitVec.eq_of_toNat_eq ?_ <;> rw [BitVec.toNat_ofNat] <;> omega
    · simp
    · simp only [Option.some.injEq, false_iff]
      intro h
      have := congrArg BitVec.toNat h
      rw [BitVec.toNat_ofNat] at this
      omega
  heads p := by
    have hkey : Lzc.key ⟨[], [], [], [], cs⟩ p = 0#16 := Lzc.key_empty cs p
    rw [hkey]
    simp only [Lzc.getPrev, Lzc.getMap, tabGet_nil, resetPrev, resetMap]
    by_cases h : p.toNat = 0
    · simp [BitVec.eq_of_toNat_eq (h.trans rfl : p.toNat = (0#12).toNat)]
    · simp only [h, if_false, reduceCtorEq, false_iff]
      intro hc
      simp at hc
      exact h (by rw [← hc]; rfl)
  mirror i _ := rfl

end Sys2Proof.Machine
end

