-- ==== Sys2Proof/Laws/Operations.lean ====
section
/-! SUPPORT. What each shared operation over the state can do, said once: fault entry, the prologue, operand checks, the
end of a command, the raw outcome of `LZ.CBLK`, what a data fault leaves unspecified, the stream items' and codes' building blocks, and lanes. -/

namespace Sys2Proof.Machine

/-! ## Fault entry (spec/60_exceptions.md R255) -/

@[simp] theorem raise_x (c : Cause) (info : Nat) (s : State) : (raise c info s).x = s.x := rfl
@[simp] theorem raise_err (c : Cause) (info : Nat) (s : State) : (raise c info s).err = c.code := rfl
@[simp] theorem raise_errInfo (c : Cause) (info : Nat) (s : State) : (raise c info s).errInfo = BitVec.ofNat 32 info := rfl
@[simp] theorem raise_lzc (c : Cause) (info : Nat) (s : State) : (raise c info s).lzc = s.lzc := rfl
@[simp] theorem raise_snap (c : Cause) (info : Nat) (s : State) : (raise c info s).snap = s.snap := rfl
@[simp] theorem raise_snapValid (c : Cause) (info : Nat) (s : State) : (raise c info s).snapValid = s.snapValid := rfl
@[simp] theorem raise_lzd (c : Cause) (info : Nat) (s : State) : (raise c info s).lzd = s.lzd := rfl
@[simp] theorem raise_ibuf (c : Cause) (info : Nat) (s : State) : (raise c info s).ibuf = s.ibuf := rfl
@[simp] theorem raise_obuf (c : Cause) (info : Nat) (s : State) : (raise c info s).obuf = s.obuf := rfl
@[simp] theorem raise_pool (c : Cause) (info : Nat) (s : State) : (raise c info s).pool = s.pool := rfl
@[simp] theorem raise_pix (c : Cause) (info : Nat) (s : State) : (raise c info s).pix = s.pix := rfl
@[simp] theorem raise_cfg (c : Cause) (info : Nat) (s : State) : (raise c info s).cfg = s.cfg := rfl
@[simp] theorem raise_phase (c : Cause) (info : Nat) (s : State) : (raise c info s).phase = s.phase := rfl
@[simp] theorem raise_lz (c : Cause) (info : Nat) (s : State) : (raise c info s).lz = s.lz := rfl
@[simp] theorem raise_gr (c : Cause) (info : Nat) (s : State) : (raise c info s).gr = s.gr := rfl
@[simp] theorem raise_events (c : Cause) (info : Nat) (s : State) : (raise c info s).events = s.events := rfl
@[simp] theorem raise_bus (c : Cause) (info : Nat) (s : State) : (raise c info s).bus = s.bus := rfl
@[simp] theorem raise_draws (c : Cause) (info : Nat) (s : State) : (raise c info s).draws = s.draws := rfl

/-- No fault has code 0, and none a code above 8 (R251). -/
theorem Cause.code_range (c : Cause) : c.code ≠ 0#8 ∧ c.code.toNat ≤ 8 := by cases c <;> decide

/-! ## The prologue (spec/45_system.md R241, R242) -/

@[simp] theorem whenReady_ready (f : State → State) (s : State) (h : s.err = 0#8) : whenReady f s = f s := by
  simp [whenReady, h]

@[simp] theorem whenReady_faulted (f : State → State) (s : State) (h : s.err ≠ 0#8) : whenReady f s = s := by
  simp [whenReady, h]

/-- Whatever is true of a state and of a command's result in it is true after the prologue. -/
theorem whenReady_cases (P : State → Prop) (f : State → State) (s : State) (h0 : P s) (h1 : s.err = 0#8 → P (f s)) :
    P (whenReady f s) := by
  by_cases h : s.err = 0#8
  · rw [whenReady_ready f s h]
    exact h1 h
  · rw [whenReady_faulted f s h]
    exact h0

/-! ## Operand checks (R254) -/

theorem checked_pass (checks : State → List (Bool × Nat)) (f : State → State) (s : State)
    (h : firstFailing (checks s) = none) : checked checks f s = f s := by simp [checked, h]

theorem checked_fail (checks : State → List (Bool × Nat)) (f : State → State) (s : State) (k : Nat)
    (h : firstFailing (checks s) = some k) : checked checks f s = raise .badOperand k s := by simp [checked, h]

/-- Whatever is true after `BAD_OPERAND` and after the checks have passed is true after the checked command. -/
theorem checked_cases (P : State → Prop) (checks : State → List (Bool × Nat)) (f : State → State) (s : State)
    (h0 : ∀ k, firstFailing (checks s) = some k → P (raise .badOperand k s))
    (h1 : firstFailing (checks s) = none → P (f s)) : P (checked checks f s) := by
  cases h : firstFailing (checks s) with
  | none =>
    rw [checked_pass checks f s h]
    exact h1 h
  | some k =>
    rw [checked_fail checks f s k h]
    exact h0 k h

/-- The checks of `LZ.DECOMP` pass exactly when the input fits `IBUF`. -/
theorem decompChecks_pass (s : State) : firstFailing (decompChecks s) = none ↔ s.inLen ≤ s.cfg.ibufCap := by
  simp [decompChecks, firstFailing, inputTooLong]

/-- The checks of `LZ.COMP` and `LZ.CBLK` pass exactly when the input fits `IBUF` and its worst case fits `OBUF`. -/
theorem compChecks_pass (s : State) : firstFailing (compChecks s) = none ↔
    s.inLen ≤ s.cfg.ibufCap ∧ s.inLen + (s.inLen + 7) / 8 ≤ s.cfg.obufCap := by
  by_cases h0 : s.inLen > s.cfg.ibufCap
  · simp [compChecks, firstFailing, inputTooLong, h0]
  · by_cases h1 : s.inLen + (s.inLen + 7) / 8 > s.cfg.obufCap
    · simp [compChecks, firstFailing, inputTooLong, outputTooSmall, h0, h1]
    · simp [compChecks, firstFailing, inputTooLong, outputTooSmall, h0, h1]
      omega

/-! ## The end of a command -/

@[simp] theorem endCommand_x (s : State) : (endCommand s).x = s.x := rfl
@[simp] theorem endCommand_err (s : State) : (endCommand s).err = s.err := rfl
@[simp] theorem endCommand_errInfo (s : State) : (endCommand s).errInfo = s.errInfo := rfl
@[simp] theorem endCommand_lzc (s : State) : (endCommand s).lzc = s.lzc := rfl
@[simp] theorem endCommand_snap (s : State) : (endCommand s).snap = s.snap := rfl
@[simp] theorem endCommand_snapValid (s : State) : (endCommand s).snapValid = s.snapValid := rfl
@[simp] theorem endCommand_lzd (s : State) : (endCommand s).lzd = s.lzd := rfl
@[simp] theorem endCommand_ibuf (s : State) : (endCommand s).ibuf = s.ibuf := rfl
@[simp] theorem endCommand_obuf (s : State) : (endCommand s).obuf = s.obuf := rfl
@[simp] theorem endCommand_pool (s : State) : (endCommand s).pool = s.pool := rfl
@[simp] theorem endCommand_pix (s : State) : (endCommand s).pix = s.pix := rfl
@[simp] theorem endCommand_cfg (s : State) : (endCommand s).cfg = s.cfg := rfl
@[simp] theorem endCommand_phase (s : State) : (endCommand s).phase = .idle := rfl
@[simp] theorem endCommand_lz (s : State) : (endCommand s).lz = LzCursor.none := rfl
@[simp] theorem endCommand_gr (s : State) : (endCommand s).gr = GrCursor.none := rfl
@[simp] theorem endCommand_events (s : State) : (endCommand s).events = s.events := rfl
@[simp] theorem endCommand_bus (s : State) : (endCommand s).bus = s.bus := rfl
@[simp] theorem endCommand_draws (s : State) : (endCommand s).draws = s.draws := rfl

/-! ## Rings -/

@[simp] theorem Lzd.get_fresh (p : Pos) : Lzd.fresh.get p = 0#8 := rfl

/-- The primed ring, position by position (spec/42_lz_decompress.md R171). -/
theorem Lzd.get_primed (p : Pos) : Lzd.primed.get p = primeByte p.toNat := by
  have h : p.toNat < 4096 := p.isLt
  simp [Lzd.primed, Lzd.get, tabGet_ofFn, h]

@[simp] theorem Lzd.dr_primed : Lzd.primed.dr = 0#12 := rfl

/-- A free ring, position by position. -/
theorem Lzd.get_free (draw : Nat) (p : Pos) : (Lzd.free draw).get p = Config.freeRingByte draw p.toNat := by
  have h : p.toNat < 4096 := p.isLt
  simp [Lzd.free, Lzd.get, tabGet_ofFn, h]

@[simp] theorem Lzd.dr_free (draw : Nat) : (Lzd.free draw).dr = Config.freePos draw := rfl

/-- A free ring and the primed ring are canonical. -/
theorem Lzd.canon_free (draw : Nat) : tabCanon resetText 4096 (Lzd.free draw).text := tabCanon_ofFn _ _ _

theorem Lzd.canon_primed : tabCanon resetText 4096 Lzd.primed.text := tabCanon_ofFn _ _ _

/-- A push keeps the ring canonical. -/
theorem Lzd.canon_push (d : Lzd) (c : Byte) (h : tabCanon resetText 4096 d.text) :
    tabCanon resetText 4096 (d.push c).text := tabCanon_set _ _ _ _ _ d.dr.isLt h

/-! ## What a data fault of `LZ.DECOMP` leaves (R256 (b)) -/

@[simp] theorem lzUnspecify_err (s : State) : (lzUnspecify s).err = s.err := rfl
@[simp] theorem lzUnspecify_errInfo (s : State) : (lzUnspecify s).errInfo = s.errInfo := rfl
@[simp] theorem lzUnspecify_lzc (s : State) : (lzUnspecify s).lzc = s.lzc := rfl
@[simp] theorem lzUnspecify_snap (s : State) : (lzUnspecify s).snap = s.snap := rfl
@[simp] theorem lzUnspecify_snapValid (s : State) : (lzUnspecify s).snapValid = s.snapValid := rfl
@[simp] theorem lzUnspecify_ibuf (s : State) : (lzUnspecify s).ibuf = s.ibuf := rfl
@[simp] theorem lzUnspecify_pool (s : State) : (lzUnspecify s).pool = s.pool := rfl
@[simp] theorem lzUnspecify_pix (s : State) : (lzUnspecify s).pix = s.pix := rfl
@[simp] theorem lzUnspecify_cfg (s : State) : (lzUnspecify s).cfg = s.cfg := rfl
@[simp] theorem lzUnspecify_phase (s : State) : (lzUnspecify s).phase = s.phase := rfl
@[simp] theorem lzUnspecify_lz (s : State) : (lzUnspecify s).lz = s.lz := rfl
@[simp] theorem lzUnspecify_gr (s : State) : (lzUnspecify s).gr = s.gr := rfl
@[simp] theorem lzUnspecify_events (s : State) : (lzUnspecify s).events = s.events := rfl
@[simp] theorem lzUnspecify_bus (s : State) : (lzUnspecify s).bus = s.bus := rfl
@[simp] theorem lzUnspecify_draws (s : State) : (lzUnspecify s).draws = s.draws + 1 := rfl
@[simp] theorem lzUnspecify_x (s : State) :
    (lzUnspecify s).x = { s.x with outLen := Config.freeWord s.draws } := rfl

/-- After the fault `OBUF` is canonical, with nothing listed. -/
@[simp] theorem lzUnspecify_obuf (s : State) : (lzUnspecify s).obuf = ⟨[], s.draws⟩ := rfl

@[simp] theorem lzAbort_err (c : Cause) (info : Nat) (s : State) : (lzAbort c info s).err = c.code := by
  rw [lzAbort, raise_err]
@[simp] theorem lzAbort_errInfo (c : Cause) (info : Nat) (s : State) : (lzAbort c info s).errInfo = BitVec.ofNat 32 info := by
  rw [lzAbort, raise_errInfo]
@[simp] theorem lzAbort_lzc (c : Cause) (info : Nat) (s : State) : (lzAbort c info s).lzc = s.lzc := by
  rw [lzAbort, raise_lzc, lzUnspecify_lzc, endCommand_lzc]
@[simp] theorem lzAbort_snap (c : Cause) (info : Nat) (s : State) : (lzAbort c info s).snap = s.snap := by
  rw [lzAbort, raise_snap, lzUnspecify_snap, endCommand_snap]
@[simp] theorem lzAbort_snapValid (c : Cause) (info : Nat) (s : State) : (lzAbort c info s).snapValid = s.snapValid := by
  rw [lzAbort, raise_snapValid, lzUnspecify_snapValid, endCommand_snapValid]
@[simp] theorem lzAbort_ibuf (c : Cause) (info : Nat) (s : State) : (lzAbort c info s).ibuf = s.ibuf := by
  rw [lzAbort, raise_ibuf, lzUnspecify_ibuf, endCommand_ibuf]
@[simp] theorem lzAbort_pool (c : Cause) (info : Nat) (s : State) : (lzAbort c info s).pool = s.pool := by
  rw [lzAbort, raise_pool, lzUnspecify_pool, endCommand_pool]
@[simp] theorem lzAbort_pix (c : Cause) (info : Nat) (s : State) : (lzAbort c info s).pix = s.pix := by
  rw [lzAbort, raise_pix, lzUnspecify_pix, endCommand_pix]
@[simp] theorem lzAbort_cfg (c : Cause) (info : Nat) (s : State) : (lzAbort c info s).cfg = s.cfg := by
  rw [lzAbort, raise_cfg, lzUnspecify_cfg, endCommand_cfg]
@[simp] theorem lzAbort_phase (c : Cause) (info : Nat) (s : State) : (lzAbort c info s).phase = .idle := by
  rw [lzAbort, raise_phase, lzUnspecify_phase, endCommand_phase]
@[simp] theorem lzAbort_lz (c : Cause) (info : Nat) (s : State) : (lzAbort c info s).lz = LzCursor.none := by
  rw [lzAbort, raise_lz, lzUnspecify_lz, endCommand_lz]
@[simp] theorem lzAbort_gr (c : Cause) (info : Nat) (s : State) : (lzAbort c info s).gr = GrCursor.none := by
  rw [lzAbort, raise_gr, lzUnspecify_gr, endCommand_gr]
@[simp] theorem lzAbort_events (c : Cause) (info : Nat) (s : State) : (lzAbort c info s).events = s.events := by
  rw [lzAbort, raise_events, lzUnspecify_events, endCommand_events]
@[simp] theorem lzAbort_bus (c : Cause) (info : Nat) (s : State) : (lzAbort c info s).bus = s.bus := by
  rw [lzAbort, raise_bus, lzUnspecify_bus, endCommand_bus]

/-! ## What a data fault of `GR.DEC` leaves (R256 (c)) -/

/-- Forgetting pixel lanes changes `PIX` and nothing else. -/
theorem forgetWords_frame (d : Nat) (whole : Bool) (k n i : Nat) (s : State) :
    ∃ m : Memory, forgetWords d whole k n i s = s.setPix m := by
  induction n generalizing i s with
  | zero => exact ⟨s.pix, by simp [forgetWords]⟩
  | succ n ih =>
    rw [forgetWords]
    simp only [State.writePixLane_eq, State.setPix_setPix]
    split
    · obtain ⟨m, hm⟩ := ih (i + 1) (s.setPix _)
      exact ⟨m, by rw [hm, State.setPix_setPix]⟩
    · obtain ⟨m, hm⟩ := ih (i + 1) (s.setPix _)
      exact ⟨m, by rw [hm, State.setPix_setPix]⟩

/-- A data fault of `GR.DEC` changes `PIX`, the fault registers, the phase, the transient values and the draw count,
and nothing else. -/
theorem grAbort_frame (c : Cause) (info : Nat) (s : State) :
    ∃ m : Memory, grAbort c info s = raise c info (((endCommand s).setPix m).setDraws (s.draws + 1)) := by
  obtain ⟨m, hm⟩ := forgetWords_frame s.draws (s.x.first == 1#32) s.x.chan.toNat s.x.pixCount.toNat
    s.x.pixBase.toNat (endCommand s)
  refine ⟨m, ?_⟩
  rw [grAbort, grUnspecify]
  simp only [endCommand_draws, endCommand_x]
  rw [hm]

/-- Forgetting lanes `k < 4` of `n` words from word `i` leaves every byte outside those words alone. -/
theorem readByte_forgetWords_outside (d : Nat) (whole : Bool) (k n i a : Nat) (s : State) (hk : k < 4)
    (ha : a < 4 * i ∨ 4 * (i + n) ≤ a) : (forgetWords d whole k n i s).readByte .pix a = s.readByte .pix a := by
  induction n generalizing i s with
  | zero => rfl
  | succ n ih =>
    rw [forgetWords, ih (i + 1) _ (by omega)]
    split
    · simp only [State.writePixLane, State.readByte_writeByte]
      rw [if_neg (by omega), if_neg (by omega), if_neg (by omega), if_neg (by omega)]
    · simp only [State.writePixLane, State.readByte_writeByte]
      rw [if_neg (by omega)]

/-- Forgetting one lane leaves the other lanes of every word alone. -/
theorem readByte_forgetWords_lane (d k n i a : Nat) (s : State) (hk : k < 4) (ha : a % 4 ≠ k) :
    (forgetWords d false k n i s).readByte .pix a = s.readByte .pix a := by
  induction n generalizing i s with
  | zero => rfl
  | succ n ih =>
    rw [forgetWords, ih]
    simp only [State.writePixLane, State.readByte_writeByte, Bool.false_eq_true, if_false]
    rw [if_neg (by omega)]

/-! ## One output byte and the byte-serial copy (spec/42_lz_decompress.md R174, R175) -/

@[simp] theorem State.x_emit (s : State) (c : Byte) : (s.emit c).x = s.x := by
  simp only [State.emit, State.x_setLz, State.x_writeByte, State.x_setLzd]
@[simp] theorem State.err_emit (s : State) (c : Byte) : (s.emit c).err = s.err := by
  simp only [State.emit, State.err_setLz, State.err_writeByte, State.err_setLzd]
@[simp] theorem State.errInfo_emit (s : State) (c : Byte) : (s.emit c).errInfo = s.errInfo := by
  simp only [State.emit, State.errInfo_setLz, State.errInfo_writeByte, State.errInfo_setLzd]
@[simp] theorem State.lzc_emit (s : State) (c : Byte) : (s.emit c).lzc = s.lzc := by
  simp only [State.emit, State.lzc_setLz, State.lzc_writeByte, State.lzc_setLzd]
@[simp] theorem State.snap_emit (s : State) (c : Byte) : (s.emit c).snap = s.snap := by
  simp only [State.emit, State.snap_setLz, State.snap_writeByte, State.snap_setLzd]
@[simp] theorem State.snapValid_emit (s : State) (c : Byte) : (s.emit c).snapValid = s.snapValid := by
  simp only [State.emit, State.snapValid_setLz, State.snapValid_writeByte, State.snapValid_setLzd]
@[simp] theorem State.lzd_emit (s : State) (c : Byte) : (s.emit c).lzd = s.lzd.push c := by
  simp only [State.emit, State.lzd_setLz, State.lzd_writeByte, State.lzd_setLzd]
@[simp] theorem State.ibuf_emit (s : State) (c : Byte) : (s.emit c).ibuf = s.ibuf := rfl
@[simp] theorem State.pool_emit (s : State) (c : Byte) : (s.emit c).pool = s.pool := rfl
@[simp] theorem State.pix_emit (s : State) (c : Byte) : (s.emit c).pix = s.pix := rfl
@[simp] theorem State.cfg_emit (s : State) (c : Byte) : (s.emit c).cfg = s.cfg := by
  simp only [State.emit, State.cfg_setLz, State.cfg_writeByte, State.cfg_setLzd]
@[simp] theorem State.phase_emit (s : State) (c : Byte) : (s.emit c).phase = s.phase := by
  simp only [State.emit, State.phase_setLz, State.phase_writeByte, State.phase_setLzd]
@[simp] theorem State.lz_emit (s : State) (c : Byte) : (s.emit c).lz = { s.lz with op := s.lz.op + 1 } := by
  simp only [State.emit, State.lz_setLz]
@[simp] theorem State.gr_emit (s : State) (c : Byte) : (s.emit c).gr = s.gr := by
  simp only [State.emit, State.gr_setLz, State.gr_writeByte, State.gr_setLzd]
@[simp] theorem State.events_emit (s : State) (c : Byte) : (s.emit c).events = s.events := by
  simp only [State.emit, State.events_setLz, State.events_writeByte, State.events_setLzd]
@[simp] theorem State.bus_emit (s : State) (c : Byte) : (s.emit c).bus = s.bus := by
  simp only [State.emit, State.bus_setLz, State.bus_writeByte, State.bus_setLzd]
@[simp] theorem State.draws_emit (s : State) (c : Byte) : (s.emit c).draws = s.draws := by
  simp only [State.emit, State.draws_setLz, State.draws_writeByte, State.draws_setLzd]

/-- One output byte as three field updates. -/
theorem State.emit_eq (s : State) (c : Byte) : s.emit c =
    ((s.setLzd (s.lzd.push c)).setObuf (s.obuf.write s.lz.op c)).setLz { s.lz with op := s.lz.op + 1 } := rfl

/-- What a byte of any buffer reads as after one output byte. -/
theorem State.readByte_emit (s : State) (c : Byte) (sp : Space) (a : Nat) :
    (s.emit c).readByte sp a = if sp = .obuf ∧ a = s.lz.op then c else s.readByte sp a := by
  cases sp
  case obuf =>
    exact State.readByte_writeByte (s.setLzd (s.lzd.push c)) .obuf .obuf s.lz.op a c
  all_goals
    rw [if_neg (by simp)]
    rfl

@[simp] theorem Lzd.push_dr (d : Lzd) (c : Byte) : (d.push c).dr = d.dr + 1#12 := rfl

/-- What a ring position reads as after a byte is pushed. -/
theorem Lzd.get_push (d : Lzd) (c : Byte) (p : Pos) : (d.push c).get p = if p = d.dr then c else d.get p := by
  simp only [Lzd.get, Lzd.push, tabGet_set]
  by_cases h : p = d.dr
  · simp [h]
  · have : p.toNat ≠ d.dr.toNat := fun hn => h (BitVec.eq_of_toNat_eq hn)
    simp [h, this]

/-- The byte-serial copy on the state is the one on the ring; it yields `n` bytes. -/
theorem Lzd.copy_length (n : Nat) (p : Pos) (d : Lzd) : (Lzd.copy n p d).2.length = n := by
  induction n generalizing p d with
  | zero => rfl
  | succ n ih => simp [Lzd.copy, ih]

theorem copyMatch_lzd (n : Nat) (p : Pos) (s : State) : (copyMatch n p s).lzd = (Lzd.copy n p s.lzd).1 := by
  induction n generalizing p s with
  | zero => rfl
  | succ n ih => rw [copyMatch, ih]; rfl

theorem copyMatch_lz (n : Nat) (p : Pos) (s : State) :
    (copyMatch n p s).lz = { s.lz with op := s.lz.op + n } := by
  induction n generalizing p s with
  | zero => rfl
  | succ n ih =>
    rw [copyMatch, ih]
    simp only [State.lz_emit]
    congr 1
    omega

/-- A copy changes the ring, `OBUF` and the output cursor, and nothing else. -/
theorem copyMatch_frame (n : Nat) (p : Pos) (s : State) :
    ∃ m : Memory, copyMatch n p s =
      ((s.setLzd (Lzd.copy n p s.lzd).1).setObuf m).setLz { s.lz with op := s.lz.op + n } := by
  induction n generalizing p s with
  | zero => exact ⟨s.obuf, rfl⟩
  | succ n ih =>
    obtain ⟨m, hm⟩ := ih (p + 1#12) (s.emit (s.lzd.get p))
    refine ⟨m, ?_⟩
    have hop : s.lz.op + 1 + n = s.lz.op + (n + 1) := by omega
    rw [copyMatch, hm]
    simp only [State.lz_emit, State.lzd_emit, hop]
    rw [State.emit_eq]
    simp only [State.setLz_setLzd, State.setObuf_setLzd, State.setLz_setObuf, State.setLzd_setLzd,
      State.setObuf_setObuf, State.setLz_setLz, Lzd.copy]

/-- What `OBUF` reads as after a copy: the bytes copied, and what it held elsewhere. -/
theorem readByte_copyMatch (n : Nat) (p : Pos) (s : State) (a : Nat) :
    (copyMatch n p s).readByte .obuf a =
      if h : s.lz.op ≤ a ∧ a - s.lz.op < n then
        (Lzd.copy n p s.lzd).2[a - s.lz.op]'(by rw [Lzd.copy_length]; exact h.2)
      else s.readByte .obuf a := by
  induction n generalizing p s with
  | zero => simp [copyMatch]
  | succ n ih =>
    rw [copyMatch, ih]
    simp only [State.lz_emit, State.lzd_emit, State.readByte_emit, true_and]
    by_cases h0 : a = s.lz.op
    · subst h0
      simp [Lzd.copy]
    · by_cases h1 : s.lz.op + 1 ≤ a ∧ a - (s.lz.op + 1) < n
      · have h2 : s.lz.op ≤ a ∧ a - s.lz.op < n + 1 := by omega
        rw [dif_pos h1, dif_pos h2]
        have hidx : a - s.lz.op = (a - (s.lz.op + 1)) + 1 := by omega
        simp only [hidx, Lzd.copy, List.getElem_cons_succ]
      · have h2 : ¬(s.lz.op ≤ a ∧ a - s.lz.op < n + 1) := by omega
        rw [dif_neg h1, dif_neg h2, if_neg h0]

/-! ## Pixels (spec/43_golomb.md R200) -/

/-- Writing a pixel changes `PIX` and nothing else. -/
theorem putPix_frame (i : Nat) (e : Byte) (s : State) : ∃ m : Memory, putPix i e s = s.setPix m := by
  unfold putPix
  split
  · exact s.writePixWord_frame i _
  · exact ⟨_, s.writePixLane_eq i _ e⟩

/-- Writing zero pixels changes `PIX` and nothing else. -/
theorem putZeros_frame (n i : Nat) (s : State) : ∃ m : Memory, putZeros n i s = s.setPix m := by
  induction n generalizing i s with
  | zero => exact ⟨s.pix, by simp [putZeros]⟩
  | succ n ih =>
    obtain ⟨m, hm⟩ := putPix_frame i 0#8 s
    obtain ⟨m', hm'⟩ := ih (i + 1) (putPix i 0#8 s)
    exact ⟨m', by rw [putZeros, hm', hm, State.setPix_setPix]⟩

/-! ## Lanes (spec/44_packed.md R220) -/

theorem getLsbD_pack (l0 l1 l2 l3 : Byte) (j : Nat) : (pack l0 l1 l2 l3).getLsbD j =
    if j < 8 then l0.getLsbD j else if j - 8 < 8 then l1.getLsbD (j - 8)
    else if j - 8 - 8 < 8 then l2.getLsbD (j - 8 - 8) else l3.getLsbD (j - 8 - 8 - 8) := by
  simp only [pack, BitVec.getLsbD_append]

/-- Each lane of a packed word is the byte packed there. -/
theorem lane_pack (l0 l1 l2 l3 : Byte) : lane (pack l0 l1 l2 l3) 0 = l0 ∧ lane (pack l0 l1 l2 l3) 1 = l1 ∧
    lane (pack l0 l1 l2 l3) 2 = l2 ∧ lane (pack l0 l1 l2 l3) 3 = l3 := by
  refine ⟨?_, ?_, ?_, ?_⟩ <;>
    · refine BitVec.eq_of_getLsbD_eq fun i hi => ?_
      rw [lane, BitVec.getLsbD_extractLsb', getLsbD_pack]
      simp only [hi, decide_true, Bool.true_and]
      split_ifs <;> first | omega | (congr 1; omega)

/-- The lanes of a lane-wise result on two words (R220). -/
theorem lane_lanes2 (f : Byte → Byte → Byte) (a b : Word) (k : Nat) (hk : k < 4) :
    lane (lanes2 f a b) k = f (lane a k) (lane b k) := by
  obtain ⟨h0, h1, h2, h3⟩ := lane_pack (f (lane a 0) (lane b 0)) (f (lane a 1) (lane b 1))
    (f (lane a 2) (lane b 2)) (f (lane a 3) (lane b 3))
  interval_cases k
  exacts [h0, h1, h2, h3]

/-- The lanes of a lane-wise result on three words (R220). -/
theorem lane_lanes3 (f : Byte → Byte → Byte → Byte) (a b c : Word) (k : Nat) (hk : k < 4) :
    lane (lanes3 f a b c) k = f (lane a k) (lane b k) (lane c k) := by
  obtain ⟨h0, h1, h2, h3⟩ := lane_pack (f (lane a 0) (lane b 0) (lane c 0)) (f (lane a 1) (lane b 1) (lane c 1))
    (f (lane a 2) (lane b 2) (lane c 2)) (f (lane a 3) (lane b 3) (lane c 3))
  interval_cases k
  exacts [h0, h1, h2, h3]

/-! ## The chosen number of the first failing operand check -/

/-- The number answered belongs to a check that fails. -/
theorem firstFailing_mem (l : List (Bool × Nat)) (k : Nat) (h : firstFailing l = some k) : (true, k) ∈ l := by
  induction l with
  | nil => simp [firstFailing] at h
  | cons e rest ih =>
    obtain ⟨b, n⟩ := e
    cases b
    · simp only [firstFailing, Bool.false_eq_true, if_false] at h
      exact List.mem_cons_of_mem _ (ih h)
    · simp only [firstFailing, if_true, Option.some.injEq] at h
      subst h
      simp

/-! ## The raw outcome of `LZ.CBLK` (spec/41_lz_compress.md R155) -/

/-- How many bytes are read. -/
@[simp] theorem State.inputFrom_length (s : State) (a n : Nat) : (s.inputFrom a n).length = n := by
  induction n generalizing a with
  | zero => rfl
  | succ n ih => simp [State.inputFrom, ih]

/-- Which bytes are read. -/
theorem State.inputFrom_getElem? (s : State) (a n i : Nat) (h : i < n) :
    (s.inputFrom a n)[i]? = some (s.readByte .ibuf (a + i)) := by
  induction n generalizing a i with
  | zero => omega
  | succ n ih =>
    cases i with
    | zero => simp [State.inputFrom]
    | succ i => simpa [State.inputFrom, Nat.add_assoc, Nat.add_comm 1 i] using ih (a + 1) i (by omega)

/-- The input is rolled out over `OBUF`, the dictionary rolled back, the two results set; nothing else changes. -/
theorem storeRaw_frame (s : State) :
    ∃ m : Memory, storeRaw s = (((s.setLzc s.snap).setObuf m).setMark 1#32).setOutLen s.x.inLen := by
  obtain ⟨m, hm⟩ := (s.setLzc s.snap).writeBytes_frame .obuf 0 s.input
  exact ⟨m, by rw [storeRaw, hm]; rfl⟩

/-- `OBUF` after it: the input, and beyond it what the attempt left. -/
theorem readByte_storeRaw (s : State) (a : Nat) :
    (storeRaw s).readByte .obuf a = if a < s.inLen then s.readByte .ibuf a else s.readByte .obuf a := by
  have h : (storeRaw s).readByte .obuf a = ((s.setLzc s.snap).writeBytes .obuf 0 s.input).readByte .obuf a := rfl
  rw [h, State.readByte_writeBytes]
  by_cases ha : a < s.inLen
  · have hg := s.inputFrom_getElem? 0 s.inLen a ha
    rw [Nat.zero_add] at hg
    have hl : 0 ≤ a ∧ a - 0 < s.input.length := ⟨Nat.zero_le a, by simpa [State.input] using ha⟩
    rw [dif_pos hl, if_pos ha]
    exact (List.getElem?_eq_some_iff.mp hg).2
  · rw [dif_neg (by simpa [State.input] using ha), if_neg ha]
    rfl

/-! ## Ranges of transient values and details, where there is nothing to say -/

/-- Between commands there are no transient values. -/
theorem State.commandOk_of_idle (s : State) (h : s.phase = .idle) : s.CommandOk :=
  ⟨fun h' => absurd (h.symm.trans h') (by decide), fun h' => absurd (h.symm.trans h') (by decide)⟩

/-- Without a fault there is no detail. -/
theorem State.detailsOk_of_err_zero (s : State) (h : s.err = 0#8) : s.DetailsOk :=
  ⟨fun h' => absurd (h.symm.trans h') (by decide), fun h' => absurd (h.symm.trans h') (by decide),
    fun h' => absurd (h.symm.trans h') (by decide), fun h' => absurd (h.symm.trans h') (by decide),
    fun h' => absurd (h.symm.trans h') (by decide), fun h' => absurd (h.symm.trans h') (by decide)⟩

/-! ## Control bytes with unused bits (spec/42_lz_decompress.md R173) -/

/-- A full group has no unused control bits. -/
theorem controlByte_full (spare : Nat) (group : List LzToken) (h : group.length = 8) :
    controlByte spare group = BitVec.ofNat 8 (controlBits group) := by
  apply BitVec.eq_of_toNat_eq
  simp only [controlByte, h, BitVec.toNat_ofNat]
  omega

end Sys2Proof.Machine
end

