-- ==== Sys2Proof/Laws/PerInstr.lean ====
section
/-! SUPPORT. What holds of every instruction, said constructor by constructor: the number of bits it is written
with. -/

namespace Sys2Proof

/-- How many bits an encoding has. -/
def Encoded.bitLength : Encoded → Nat
  | .command _ => 32
  | .bytes bs => 8 * bs.length
  | .bits bs => bs.length

/-- How many bits the spec gives an instruction (spec/30_encoding.md R91, R95 to R98, R103 to R105), at bit `bit` of
its byte and with Golomb parameter `k`. -/
def Instr.bitLength (bit k : Nat) : Instr → Nat
  | .sysReset => 32
  | .lzCreset => 32
  | .lzComp => 32
  | .lzStore => 32
  | .lzRestore => 32
  | .lzCblk => 32
  | .lzDreset => 32
  | .lzPrime => 32
  | .lzDecomp => 32
  | .grDec => 32
  | .pkGt => 32
  | .pkAdd => 32
  | .pkAvg => 32
  | .pkMed => 32
  | .ctrl _ => 8
  | .lit _ => 8
  | .lzMatch _ _ => 16
  | .lzMatchx _ _ => 24
  | .gamma z _ => 2 * z + 1
  | .golomb q _ => q + 1 + k
  | .golombx _ _ => 32 - bit + 8 + k

theorem lsbBits_length (n v : Nat) : (lsbBits n v).length = n := by
  induction n generalizing v with
  | zero => rfl
  | succ n ih => simp [lsbBits, ih]

namespace Laws.EncodedLength

/-- An instruction is written with as many bits as the spec gives it. -/
def Statement (i : Instr) : Prop := ∀ bit k : Nat, (encode bit k i).bitLength = i.bitLength bit k

theorem sysReset : Statement .sysReset := fun _ _ => rfl
theorem lzCreset : Statement .lzCreset := fun _ _ => rfl
theorem lzComp : Statement .lzComp := fun _ _ => rfl
theorem lzStore : Statement .lzStore := fun _ _ => rfl
theorem lzRestore : Statement .lzRestore := fun _ _ => rfl
theorem lzCblk : Statement .lzCblk := fun _ _ => rfl
theorem lzDreset : Statement .lzDreset := fun _ _ => rfl
theorem lzPrime : Statement .lzPrime := fun _ _ => rfl
theorem lzDecomp : Statement .lzDecomp := fun _ _ => rfl
theorem grDec : Statement .grDec := fun _ _ => rfl
theorem pkGt : Statement .pkGt := fun _ _ => rfl
theorem pkAdd : Statement .pkAdd := fun _ _ => rfl
theorem pkAvg : Statement .pkAvg := fun _ _ => rfl
theorem pkMed : Statement .pkMed := fun _ _ => rfl
theorem ctrl (f : Byte) : Statement (.ctrl f) := fun _ _ => rfl
theorem lit (c : Byte) : Statement (.lit c) := fun _ _ => rfl
theorem lzMatch (p : Pos) (lc : BitVec 4) : Statement (.lzMatch p lc) := fun _ _ => rfl
theorem lzMatchx (p : Pos) (e : Byte) : Statement (.lzMatchx p e) := fun _ _ => rfl

theorem gamma (z s : Nat) : Statement (.gamma z s) := fun _ _ => by
  simp only [encode, GrCode.bits, Encoded.bitLength, Instr.bitLength, List.length_append, List.length_replicate,
    List.length_cons, lsbBits_length]
  omega

theorem golomb (q r : Nat) : Statement (.golomb q r) := fun _ _ => by
  simp only [encode, GrCode.bits, Encoded.bitLength, Instr.bitLength, List.length_append, List.length_replicate,
    List.length_cons, lsbBits_length]
  omega

theorem golombx (q : Byte) (r : Nat) : Statement (.golombx q r) := fun _ _ => by
  simp only [encode, GrCode.bits, Encoded.bitLength, Instr.bitLength, List.length_append, List.length_replicate,
    lsbBits_length]

end Laws.EncodedLength

end Sys2Proof
end

