-- ==== Sys2Proof/Tests/Slice0.lean ====
section
/-! SUPPORT. The model's own tests: well-formedness, decoding of words written out from the spec's encodings, small
one-step tests with values from spec/95_test_vectors.md, and for every statement with hypotheses a state and operands
that meet them. -/

namespace Sys2Proof.Tests
open Sys2Proof Sys2Proof.Machine

set_option Elab.async false

/-! ## Well-formedness: each check refuses an ill-formed term -/

/-- `lc` = 15 is `MATCHX`, not `MATCH` (30_encoding.md R97). -/
theorem test_wf_match : Instr.wf (.lzMatch 0#12 15#4) = false ∧ Instr.wf (.lzMatch 0#12 14#4) = true := by decide
/-- A count has at most 24 leading zeros, and a suffix of that many bits (R103). -/
theorem test_wf_gamma : Instr.wf (.gamma 25 0) = false ∧ Instr.wf (.gamma 2 4) = false ∧
    Instr.wf (.gamma 24 16777215) = true := by decide
/-- A unary quotient ends inside the window, a remainder has at most 8 bits (R104, R105). -/
theorem test_wf_golomb : Instr.wf (.golomb 32 0) = false ∧ Instr.wf (.golomb 0 256) = false ∧
    Instr.wf (.golomb 31 255) = true ∧ Instr.wf (.golombx 255#8 256) = false ∧
    Instr.wf (.golombx 255#8 255) = true := by decide
/-- At bit 7 with parameter 2, `q` is at most 24 and `r` below 4. -/
theorem test_wf_fits : Instr.fitsAt 7 2 (.golomb 25 0) = false ∧ Instr.fitsAt 7 2 (.golomb 24 4) = false ∧
    Instr.fitsAt 7 2 (.golomb 24 3) = true ∧ Instr.fitsAt 7 2 (.golombx 0#8 4) = false ∧
    Instr.fitsAt 0 0 .pkGt = false := by decide

/-! ## Decoding: words, bytes and bits written out from the spec -/

/-- Opcodes of R92, as 32-bit words. -/
theorem test_decode_sysReset : decodeTableWord 32 0x00000001 = some .sysReset := by decide
theorem test_decode_lzCreset : decodeTableWord 32 0x00000010 = some .lzCreset := by decide
theorem test_decode_lzComp : decodeTableWord 32 0x00000011 = some .lzComp := by decide
theorem test_decode_lzStore : decodeTableWord 32 0x00000012 = some .lzStore := by decide
theorem test_decode_lzRestore : decodeTableWord 32 0x00000013 = some .lzRestore := by decide
theorem test_decode_lzCblk : decodeTableWord 32 0x00000014 = some .lzCblk := by decide
theorem test_decode_lzDreset : decodeTableWord 32 0x00000020 = some .lzDreset := by decide
theorem test_decode_lzPrime : decodeTableWord 32 0x00000021 = some .lzPrime := by decide
theorem test_decode_lzDecomp : decodeTableWord 32 0x00000022 = some .lzDecomp := by decide
theorem test_decode_grDec : decodeTableWord 32 0x00000030 = some .grDec := by decide
theorem test_decode_pkGt : decodeTableWord 32 0x00000040 = some .pkGt := by decide
theorem test_decode_pkAdd : decodeTableWord 32 0x00000041 = some .pkAdd := by decide
theorem test_decode_pkAvg : decodeTableWord 32 0x00000042 = some .pkAvg := by decide
theorem test_decode_pkMed : decodeTableWord 32 0x00000043 = some .pkMed := by decide
/-- Vectors V-X1 to V-X3 and `0x00000101` (R240): not commands. -/
theorem test_decode_illegal : decodeCommand 0x00000000#32 = .reject .unassigned ∧
    decodeCommand 0x00000111#32 = .reject .highBits ∧ decodeCommand 0x00000015#32 = .reject .unassigned ∧
    decodeCommand 0x00000101#32 = .reject .highBits := by decide
/-- V-D6 and V-D8: `match 4095,3` is `FF 0F`; `match 0,20` is `00 F0 02`; V-D4: `match 0,6` is `00 30`. -/
theorem test_decode_match : decodeToken true [0xFF#8, 0x0F#8] = .ok (.short 0xFFF#12 0#4, []) ∧
    decodeToken true [0x00#8, 0xF0#8, 0x02#8] = .ok (.long 0#12 2#8, []) ∧
    decodeToken true [0x00#8, 0x30#8] = .ok (.short 0#12 3#4, []) := by decide
/-- R95, R96: a control byte and a literal. -/
theorem test_decode_control : decodeControl [0xFE#8, 0x41#8] = .ok (.ctrl 0xFE#8, [0x41#8]) ∧
    decodeToken false [0x41#8] = .ok (.lit 0x41#8, []) := by decide
/-- R100, V-D14, V-D15: truncated tokens. -/
theorem test_decode_truncated : decodeToken true [0x05#8] = .reject (.truncated 0) ∧
    decodeToken true [0x05#8, 0xF0#8] = .reject (.truncated 2) ∧
    decodeToken false [] = .reject (.truncated 0) := by decide

/-- A pool given by its bytes; zero beyond them. -/
def poolOf (bs : List Byte) (i : Nat) : Byte := bs.getD i 0#8

/-- R194: bits `00100` from bit 1 (V-G4's pool `49 89`) are a count of 4; `00111` one of 7. -/
theorem test_decode_gamma : gammaAt (poolOf [0x49#8, 0x89#8]) 6 ⟨0, 1⟩ = .ok (.gamma 2 0, ⟨0, 6⟩) ∧
    gammaAt (poolOf [0b00111000#8]) 5 ⟨0, 1⟩ = .ok (.gamma 2 3, ⟨0, 6⟩) := by decide +kernel
/-- V-G24: 25 leading zeros; V-G22: no 1 bit; V-G17: a window past `POOL_LEN`. -/
theorem test_decode_gamma_rejects :
    gammaAt (poolOf [0#8, 0#8, 0#8, 4#8]) 12 ⟨0, 1⟩ = .reject .countTooLong ∧
    gammaAt (poolOf []) 16 ⟨0, 1⟩ = .reject (.poolRange 13) ∧
    gammaAt (poolOf [0x49#8, 0x89#8]) 3 ⟨0, 1⟩ = .reject (.poolRange 0) := by decide +kernel
/-- R196: with `k` = 2 the bits `0 1 1 0` are `q` = 1, `r` = 1. -/
theorem test_decode_golomb : valueAt (poolOf [0b00000110#8]) 5 2 ⟨0, 0⟩ = .ok (.golomb 1 1, ⟨0, 4⟩) := by
  decide +kernel
/-- R197's worked example: the escape at `(0,4)` with `k` = 0 has `q` = FF. -/
theorem test_decode_golombx : valueAt (poolOf [0x05#8, 0#8, 0#8, 0#8, 0xFF#8, 0x80#8, 0x1C#8]) 11 0 ⟨0, 4⟩ =
    .ok (.golombx 0xFF#8 0, ⟨5, 0⟩) := by decide +kernel

/-! ## One step on a small state -/

/-- A small machine right after power-on. -/
def small : State := State.powerUp ⟨64, 128, 64, 16, true⟩ 0

/-- The outcome is a next state with this property. -/
def leads (o : Host.Outcome State Fault Refusal) (p : State → Bool) : Bool :=
  match o with
  | .next t => p t
  | .fault _ => false
  | .refused _ => false

/-- An input in `IBUF`, with its length in `IN_LEN`. -/
def withInput (s : State) (bs : List Byte) : State :=
  (s.writeBytes .ibuf 0 bs).setX { s.x with inLen := BitVec.ofNat 32 bs.length }

/-- A pool, with pixels wanted from word 0 on. -/
def withPool (s : State) (bs : List Byte) (count : Nat) (first : Word) (chan : Word) : State :=
  (s.writeBytes .pool 0 bs).setX
    { s.x with poolLen := BitVec.ofNat 32 bs.length, pixCount := BitVec.ofNat 32 count, first := first, chan := chan }

/-- The output bytes. -/
def output (s : State) : List Byte := (List.range s.x.outLen.toNat).map (s.readByte .obuf)

/-- The packed operands. -/
def withPacked (s : State) (a b c : Word) : State := s.setX { s.x with pkA := a, pkB := b, pkC := c }

/-- V-X5: `SYS.RESET` clears the fault and the registers. -/
theorem test_sysReset : leads (exec .sysReset ((withInput small [1#8]).setErr 1#8))
    (fun t => t.err = 0#8 ∧ t.x = Regs.zero ∧ t.readByte .ibuf 0 = 1#8) = true := by decide +kernel
/-- V-X3, V-X4: an illegal word, and a command refused after it. -/
theorem test_illegal : leads (step (small.setEvents [.writeCmd 0x15#32]))
    (fun t => t.err = 1#8 ∧ t.errInfo = 0x15#32) = true := by decide +kernel
theorem test_refused : leads (exec .pkGt ((withPacked small 2#32 1#32 0#32).setErr 1#8))
    (fun t => t.x.pkY = 0#32 ∧ t.err = 1#8) = true := by decide +kernel
/-- R150: the cursor and the arrays are back. -/
theorem test_lzCreset : leads (exec .lzCreset ((small.setLzc (Lzc.fresh.putByte 0x7F#8)).markSnapshot))
    (fun t => t.lzc = Lzc.fresh ∧ t.snapValid = false) = true := by decide +kernel
/-- V-C3. -/
theorem test_lzComp_literals : leads (exec .lzComp (withInput small [0x61#8, 0x62#8, 0x63#8]))
    (fun t => output t = [0x00#8, 0x61#8, 0x62#8, 0x63#8] ∧ t.lzc.cs = 3#12) = true := by decide +kernel
/-- V-C13. -/
theorem test_lzComp_matches : leads (exec .lzComp (withInput small
    [0x61#8, 0x62#8, 0x63#8, 0x61#8, 0x62#8, 0x63#8, 0x61#8, 0x62#8, 0x63#8, 0x61#8, 0x62#8, 0x63#8]))
    (fun t => output t = [0x18#8, 0x61#8, 0x62#8, 0x63#8, 0x00#8, 0x00#8, 0x00#8, 0x20#8, 0x63#8] ∧
      t.lzc.cs = 12#12) = true := by decide +kernel
/-- R153: the bank takes the live dictionary. -/
theorem test_lzStore : leads (exec .lzStore (small.setLzc (Lzc.fresh.putByte 0x7F#8)))
    (fun t => t.snap.cs = 1#12 ∧ t.lzc.cs = 1#12 ∧ t.snapValid) = true := by decide +kernel
/-- V-B7: no snapshot, and a restore. -/
theorem test_lzRestore : leads (exec .lzRestore small) (fun t => t.err = 5#8 ∧ t.errInfo = 0#32) = true ∧
    leads (exec .lzRestore (((small.setLzc (Lzc.fresh.putByte 0x7F#8)).setSnap Lzc.fresh).markSnapshot))
      (fun t => t.lzc = Lzc.fresh ∧ t.snapValid) = true := by decide +kernel
/-- V-B2: stored raw; the dictionary is as it was. The attempt's fourth byte (V-C3: `00 61 62 63`) stays past the three raw
ones (R155's pseudocode). -/
theorem test_lzCblk_raw : leads (exec .lzCblk (withInput small [0x61#8, 0x62#8, 0x63#8]))
    (fun t => output t = [0x61#8, 0x62#8, 0x63#8] ∧ t.x.mark = 1#32 ∧ t.lzc = Lzc.fresh ∧ t.snapValid ∧
      t.readByte .obuf 3 = 0x63#8) = true := by decide +kernel
/-- V-C13 as a block: 9 bytes for 12, kept. -/
theorem test_lzCblk_kept : leads (exec .lzCblk (withInput small
    [0x61#8, 0x62#8, 0x63#8, 0x61#8, 0x62#8, 0x63#8, 0x61#8, 0x62#8, 0x63#8, 0x61#8, 0x62#8, 0x63#8]))
    (fun t => t.x.outLen = 9#32 ∧ t.x.mark = 0#32 ∧ t.lzc.cs = 12#12) = true := by decide +kernel
/-- R170. -/
theorem test_lzDreset : leads (exec .lzDreset (small.setLzd (Lzd.fresh.push 0x58#8)))
    (fun t => t.lzd = Lzd.fresh) = true := by decide +kernel
/-- V-D21: `DTEXT[124..131]`. -/
theorem test_lzPrime : leads (exec .lzPrime small)
    (fun t => t.lzd.get 124#12 = 0x0F#8 ∧ t.lzd.get 128#12 = 0x01#8 ∧ t.lzd.get 4088#12 = 0x1F#8) = true := by
  decide +kernel
/-- V-D7: overlapping matches through position 4095. -/
theorem test_lzDecomp : leads (exec .lzDecomp (withInput small [0x06#8, 0x58#8, 0xFF#8, 0x0F#8, 0xFF#8, 0x1F#8]))
    (fun t => output t = [0x58#8, 0x00#8, 0x58#8, 0x00#8, 0x00#8, 0x58#8, 0x00#8, 0x58#8] ∧ t.lzd.dr = 8#12) =
    true := by decide +kernel
/-- V-D10: unused control bits; V-D15: a `MATCHX` cut short. -/
theorem test_lzDecomp_edges : leads (exec .lzDecomp (withInput small [0xFE#8, 0x41#8]))
      (fun t => output t = [0x41#8]) = true ∧
    leads (exec .lzDecomp (withInput small [0x01#8, 0x05#8, 0xF0#8]))
      (fun t => t.err = 4#8 ∧ t.errInfo = 3#32) = true := by decide +kernel
/-- V-G8: an escape and a normal code. -/
theorem test_grDec_escape : leads (exec .grDec (withPool small
    [0x05#8, 0#8, 0#8, 0#8, 0xFF#8, 0x80#8, 0x1C#8, 0#8, 0#8, 0#8, 0#8] 2 1#32 0#32))
    (fun t => t.readPixWord 0 = 0x00000080#32 ∧ t.readPixWord 1 = 0x0000007F#32 ∧ t.err = 0#8) = true := by
  decide +kernel
/-- V-G12's pool in lane 2; V-G23's third residual. -/
theorem test_grDec_lane : leads (exec .grDec (withPool small [0x1F#8, 0x04#8, 0#8, 0#8, 0#8, 0#8] 3 0#32 2#32))
      (fun t => t.readByte .pix 2 = 0x01#8 ∧ t.readByte .pix 6 = 0x00#8 ∧ t.readByte .pix 10 = 0xFD#8) = true ∧
    leads (exec .grDec (withPool small [0x11#8, 0#8, 0#8, 0#8, 0#8, 0xFF#8, 0#8, 0#8, 0#8, 0#8, 0xFF#8, 0x1F#8, 0#8,
      0#8, 0#8, 0#8] 8 1#32 0#32)) (fun t => t.err = 7#8 ∧ t.errInfo = 4222#32) = true := by decide +kernel
/-- V-P4, V-P7. -/
theorem test_pkGt : leads (exec .pkGt (withPacked small 0x80FF7F01#32 0x7FFF8002#32 0#32))
    (fun t => t.x.pkY = 0xFF000000#32) = true := by decide +kernel
theorem test_pkAdd : leads (exec .pkAdd (withPacked small 0x12345678#32 0x9ABCDEF0#32 0#32))
    (fun t => t.x.pkY = 0xACF03468#32) = true := by decide +kernel
theorem test_pkAvg : leads (exec .pkAvg (withPacked small 0x80FF7F01#32 0x7FFF8002#32 0#32))
    (fun t => t.x.pkY = 0x80FF8002#32) = true := by decide +kernel
/-- V-P8. -/
theorem test_pkMed : leads (exec .pkMed (withPacked small 0x0A141E28#32 0x140A281E#32 0x0F0F3214#32))
    (fun t => t.x.pkY = 0x0F0F1E28#32) = true := by decide +kernel

/-- A machine inside `LZ.DECOMP`. -/
def decompressing (bs : List Byte) (ip op nbits : Nat) (ctrl : Byte) : State :=
  ((withInput small bs).setPhase .lzDecomp).setLz { ip := ip, op := op, ctrl := ctrl, nbits := nbits }

/-- R173. -/
theorem test_ctrl : leads (exec (.ctrl 0x06#8) (decompressing [0x06#8, 0x58#8] 0 0 0 0#8))
    (fun t => t.lz.ip = 1 ∧ t.lz.ctrl = 0x06#8 ∧ t.lz.nbits = 8) = true := by decide +kernel
/-- R174: `lit 0x58` at `DR` = 0. -/
theorem test_lit : leads (exec (.lit 0x58#8) (decompressing [0x00#8, 0x58#8] 1 0 8 0#8))
    (fun t => t.lzd.get 0#12 = 0x58#8 ∧ t.readByte .obuf 0 = 0x58#8 ∧ t.lzd.dr = 1#12 ∧ t.lz.nbits = 7) = true := by
  decide +kernel
/-- V-D3: `match 0,5` with `DR` = 1 repeats the byte just written. -/
theorem test_match : leads (exec (.lzMatch 0#12 2#4)
    ((decompressing [0x02#8, 0x41#8, 0x00#8, 0x20#8] 2 1 7 1#8).setLzd (Lzd.fresh.push 0x41#8)))
    (fun t => t.readByte .obuf 5 = 0x41#8 ∧ t.lzd.dr = 6#12 ∧ t.lz.ip = 4) = true := by decide +kernel
/-- V-D8: `match 0,20`. -/
theorem test_matchx : leads (exec (.lzMatchx 0#12 2#8) (decompressing [0x01#8, 0x00#8, 0xF0#8, 0x02#8] 1 0 8 1#8))
    (fun t => t.lzd.dr = 20#12 ∧ t.lz.op = 20 ∧ t.lz.ip = 4 ∧ t.readByte .obuf 19 = 0#8) = true := by decide +kernel

/-- A machine inside `GR.DEC`. -/
def decoding (pool : List Byte) (count : Nat) (cur : BitCursor) (a n run : Nat) (zero : Bool) : State :=
  ((withPool small pool count 1#32 0#32).setPhase .grDec).setGr
    { i := 0, lim := count, cur := cur, n := n, a := a, zero := zero, run := run }

/-- V-G1: four zeros. -/
theorem test_gamma : leads (exec (.gamma 2 0) (decoding [0x08#8, 0#8, 0#8, 0#8, 0#8] 4 ⟨0, 1⟩ 0 3 0 true))
    (fun t => t.readPixWord 3 = 0#32 ∧ t.gr.i = 4 ∧ t.gr.cur = ⟨0, 6⟩ ∧ t.gr.zero = false) = true := by decide +kernel
/-- V-G24, V-G20: overruns. -/
theorem test_gamma_overrun : leads (exec (.gamma 25 0) (decoding [] 4 ⟨0, 1⟩ 0 3 0 true))
      (fun t => t.err = 8#8 ∧ t.errInfo = 0#32) = true ∧
    leads (exec (.gamma 2 0) (decoding [] 3 ⟨0, 1⟩ 0 3 0 true)) (fun t => t.err = 8#8) = true := by decide +kernel
/-- V-G9's second residual: `k` = `GBL[99][2]` = 5, `q` = 6, remainder 7: -100; the context steps on. -/
theorem test_golomb : leads (exec (.golomb 6 7) (decoding [] 1 ⟨5, 4⟩ 99 2 1 false))
    (fun t => t.readPixWord 0 = 0x0000009C#32 ∧ t.gr.a = 198 ∧ t.gr.n = 1 ∧ t.gr.cur = ⟨7, 0⟩ ∧ t.gr.zero) = true := by
  decide +kernel
/-- R197's example: `q` = 255, `k` = 0: -128; `a` = 127, `n` = 2, cursor `(5,0)`. -/
theorem test_golombx : leads (exec (.golombx 255#8 0) (decoding [] 2 ⟨0, 4⟩ 0 3 2 false))
    (fun t => t.readPixWord 0 = 0x00000080#32 ∧ t.gr.a = 127 ∧ t.gr.n = 2 ∧ t.gr.cur = ⟨5, 0⟩ ∧ t.gr.run = 1) =
    true := by decide +kernel
/-- The bits of a table row stand where the next step fetches them (V-D8's token, and a command). -/
theorem test_withFetchWord : leads (step (small.withFetchWord 24 0x02F000))
      (fun t => t.lz.ip = 3 ∧ t.lz.op = 20 ∧ t.lzd.dr = 20#12) = true ∧
    leads (step (small.withFetchWord 32 0x12)) (fun t => t.snapValid) = true := by decide +kernel

/-! ## For every statement with hypotheses, a state and operands that meet them -/

/-- EncodeDecodeAgree: tokens of either kind at the ends of their ranges, and a decoding that succeeds. -/
theorem witness_EncodeDecodeAgree : tokenProper (.short 0xFFF#12 14#4) = true ∧
    tokenProper (.long 0xFFF#12 255#8) = true ∧ tokenProper (.lit 0#8) = true ∧
    decodeToken true [0xFF#8, 0xEF#8, 1#8] = .ok (.short 0xFFF#12 14#4, [1#8]) ∧
    encode 0 0 .pkMed = .command 0x43#32 ∧ decodeCommand 0x43#32 = .ok .pkMed := by decide

/-- GammaCodesRoundTrip: the shortest and the longest code, the longest from the last bit of a byte. -/
theorem witness_GammaCodesRoundTrip :
    ((∀ j : Nat, j < 2 * 0 + 1 →
      (GrCode.bits 0 0 (.gamma 0 0))[j]? = some (streamBit (poolOf [1#8]) (8 * 0 + 0 + j))) ∧
      (8 * 0 + 0 + (2 * 0 + 1)) / 8 + 4 ≤ 4) ∧
    ((∀ j : Nat, j < 2 * 24 + 1 → (GrCode.bits 0 0 (.gamma 24 16777215))[j]? =
      some (streamBit (poolOf [0#8, 0#8, 0#8, 0x80#8, 0xFF#8, 0xFF#8, 0xFF#8]) (8 * 0 + 7 + j))) ∧
      (8 * 0 + 7 + (2 * 24 + 1)) / 8 + 4 ≤ 11 ∧ 16777215 < 2 ^ 24) := by
  decide +kernel

/-- ResidualCodesRoundTrip: the longest quotient with the longest remainder from bit 7, and the escape from bit 0. -/
theorem witness_ResidualCodesRoundTrip :
    ((∀ j : Nat, j < 24 + 1 + 8 → (GrCode.bits 7 8 (.golomb 24 255))[j]? =
      some (streamBit (poolOf [0#8, 0#8, 0#8, 0x80#8, 0xFF#8]) (8 * 0 + 7 + j))) ∧
      (8 * 0 + 7 + (24 + 1 + 8)) / 8 + 4 ≤ 9 ∧ 24 ≤ 31 - 7) ∧
    ((∀ j : Nat, j < 32 - 0 + 8 + 0 → (GrCode.bits 0 0 (.golombx 255#8 0))[j]? =
      some (streamBit (poolOf [0#8, 0#8, 0#8, 0#8, 0xFF#8]) (8 * 0 + 0 + j))) ∧
      (8 * 0 + 0 + (32 - 0 + 8 + 0)) / 8 + 4 ≤ 9) := by
  decide +kernel

/-- StepRunsCommand. -/
theorem witness_StepRunsCommand : (small.setEvents [.writeCmd 0x40#32]).phase = .idle ∧
    (small.setEvents [.writeCmd 0x40#32]).events = .writeCmd 0x40#32 :: [] ∧
    decodeCommand 0x40#32 = .ok .pkGt := ⟨rfl, rfl, by decide⟩

/-- StepRunsStreamToken: a control byte; the last byte as a literal; the last two and the last three as a match. -/
theorem witness_StepRunsStreamToken :
    (let s := decompressing [1#8, 2#8] 0 0 0 0#8; s.phase = .lzDecomp ∧ s.lz.ip < s.inLen ∧ s.lz.nbits = 0) ∧
    (let s := decompressing [0#8, 2#8] 1 0 8 0#8;
      s.phase = .lzDecomp ∧ s.lz.ip < s.inLen ∧ s.lz.nbits ≠ 0 ∧ s.lz.ctrl.getLsbD 0 = false) ∧
    (let s := decompressing [1#8, 0#8, 0xE0#8] 1 0 8 1#8;
      s.phase = .lzDecomp ∧ s.lz.ip + 2 ≤ s.inLen ∧ s.lz.nbits ≠ 0 ∧ s.lz.ctrl.getLsbD 0 = true ∧
        (s.readByte .ibuf (s.lz.ip + 1)).extractLsb' 4 4 ≠ 15#4) ∧
    (let s := decompressing [1#8, 0#8, 0xF0#8, 0#8] 1 0 8 1#8;
      s.phase = .lzDecomp ∧ s.lz.ip + 3 ≤ s.inLen ∧ s.lz.nbits ≠ 0 ∧ s.lz.ctrl.getLsbD 0 = true ∧
        (s.readByte .ibuf (s.lz.ip + 1)).extractLsb' 4 4 = 15#4) := by
  decide +kernel

/-- StepRunsGolombCode: a run length (V-G1), and a residual with the accumulator at its last value in range. -/
theorem witness_StepRunsGolombCode :
    (let s := decoding [0x08#8, 0#8, 0#8, 0#8, 0#8] 4 ⟨0, 1⟩ 0 3 0 true;
      s.phase = .grDec ∧ s.gr.run = 0 ∧ s.gr.i < s.gr.lim ∧
        gammaAt s.poolByte s.poolLen s.gr.cur = .ok (.gamma 2 0, ⟨0, 6⟩)) ∧
    (let s := decoding [0x01#8, 0#8, 0#8, 0#8, 0#8] 1 ⟨0, 0⟩ 1023 3 1 false;
      s.phase = .grDec ∧ s.gr.run ≠ 0 ∧ s.gr.a < 1024 ∧
        valueAt s.poolByte s.poolLen (gbl s.gr.a s.gr.n) s.gr.cur = .ok (.golomb 0 0, ⟨1, 1⟩)) := by
  decide +kernel

/-- IllegalCommandFaults: an unassigned opcode with no fault, and a legal opcode under bits that are not zero while
faulted. -/
theorem witness_IllegalCommandFaults :
    (let s := small.setEvents [.writeCmd 0x15#32];
      s.phase = .idle ∧ s.events = .writeCmd 0x15#32 :: [] ∧ s.err = 0#8 ∧
        (0x15#32).toNat ∉ [0x01, 0x10, 0x11, 0x12, 0x13, 0x14, 0x20, 0x21, 0x22, 0x30, 0x40, 0x41, 0x42, 0x43]) ∧
    (let s := (small.setErr 8#8).setEvents [.writeCmd 0x101#32];
      s.phase = .idle ∧ s.events = .writeCmd 0x101#32 :: [] ∧ s.err ≠ 0#8 ∧
        (0x101#32).toNat ∉ [0x01, 0x10, 0x11, 0x12, 0x13, 0x14, 0x20, 0x21, 0x22, 0x30, 0x40, 0x41, 0x42, 0x43]) := by
  decide +kernel

/-- RefusedWhileFaulted. -/
theorem witness_RefusedWhileFaulted :
    (let s := (small.setErr 1#8).setEvents [.writeCmd 0x101#32];
      s.err ≠ 0#8 ∧ s.phase = .idle ∧ s.events = .writeCmd 0x101#32 :: [] ∧ (0x101#32 : Word) ≠ 0x00000001#32) ∧
    (small.setErr 1#8).err ≠ 0#8 ∧ Instr.pkGt ≠ .sysReset := by decide +kernel

/-- FaultIsSticky: `SYS.RESET` while faulted. -/
theorem witness_FaultIsSticky : ((small.setErr 8#8).setEvents [.writeCmd 1#32]).phase = .idle ∧
    ((small.setErr 8#8).setEvents [.writeCmd 1#32]).err ≠ 0#8 ∧
    leads (step ((small.setErr 8#8).setEvents [.writeCmd 1#32])) (fun t => t.err ≠ 8#8) = true := by decide +kernel

/-- StepKeepsErrorCodes: a state with a fault at the ends of R251's ranges that goes on; and machines inside
`LZ.DECOMP` and `GR.DEC` with their transient values at the ends of their ranges. -/
theorem witness_StepKeepsErrorCodes : ((small.setErr 2#8).setErrInfo 6#32).ErrorsOk ∧ (small.setErr 8#8).ErrorsOk ∧
    GoesOn (step ((small.setErr 2#8).setErrInfo 6#32)) :=
  ⟨by unfold State.ErrorsOk; decide, by unfold State.ErrorsOk; decide, ⟨_, rfl⟩⟩
theorem witness_StepKeepsErrorCodes_inCommand :
    (let s := decompressing [1#8, 5#8] 1 128 8 1#8;
      s.cfg.Valid ∧ s.CommandOk ∧ s.DetailsOk ∧ GoesOn (step s)) ∧
    (let s := decoding [1#8, 1#8, 1#8, 1#8] 16 ⟨3, 7⟩ 65535 3 16 false;
      s.cfg.Valid ∧ s.CommandOk ∧ s.DetailsOk ∧ GoesOn (step s)) :=
  ⟨⟨by decide, ⟨fun _ => by decide +kernel, fun h => absurd h (by decide)⟩,
      State.detailsOk_of_err_zero _ rfl, ⟨_, rfl⟩⟩,
    ⟨by decide, ⟨fun h => absurd h (by decide), fun _ => by decide +kernel⟩,
      State.detailsOk_of_err_zero _ rfl, ⟨_, rfl⟩⟩⟩
/-- Details at the ends of their ranges are let through, and one past them is not. -/
theorem test_details : ((small.setErr 7#8).setErrInfo 1024#32).DetailsOk ∧
    ¬((small.setErr 7#8).setErrInfo 1023#32).DetailsOk ∧ ¬((small.setErr 1#8).setErrInfo 0x10#32).DetailsOk ∧
    ¬((small.setErr 4#8).setErrInfo 65#32).DetailsOk ∧ ¬((small.setErr 8#8).setErrInfo 16#32).DetailsOk :=
  ⟨⟨fun h => absurd h (by decide), fun h => absurd h (by decide), fun h => absurd h (by decide),
      fun h => absurd h (by decide), fun _ => by decide, fun h => absurd h (by decide)⟩,
    fun h => absurd (h.grTableRange rfl).1 (by decide), fun h => h.illegalCmd rfl .lzCreset (by decide),
    fun h => absurd (h.lzTruncated rfl).2 (by decide), fun h => absurd (h.grOverrun rfl) (by decide)⟩

/-- FaultsRaisedOnlyBy: a fault of each kind of instruction that has one of its own (see also the tests above). -/
theorem witness_FaultsRaisedOnlyBy : small.err = 0#8 ∧ leads (exec .lzRestore small) (fun t => t.err = 5#8) = true ∧
    leads (exec (.golomb 0 0) (decoding [] 1 ⟨0, 1⟩ 1024 3 1 false)) (fun t => t.err = 7#8) = true ∧
    leads (exec (.lit 0#8) (decompressing [] 0 128 1 0#8)) (fun t => t.err = 3#8) = true := by decide +kernel

/-- StepStopsOnlyOutsideBuffers: the last index inside goes on, the first outside does not. -/
theorem witness_StepStopsOnlyOutsideBuffers :
    Event.inRange small (.access (.readByte .obuf 127)) = true ∧
    Event.inRange small (.access (.readByte .obuf 128)) = false ∧
    Event.inRange small (.access (.readPix 15)) = true ∧ Event.inRange small (.access (.readPix 16)) = false := by
  decide

/-- StepKeepsIdle, StepKeepsConfiguration: a state between commands that goes on by a command. -/
theorem witness_StepKeepsIdle : (small.setEvents [.writeCmd 0x22#32]).Idle ∧
    GoesOn (step (small.setEvents [.writeCmd 0x22#32])) := ⟨⟨rfl, rfl, rfl⟩, ⟨_, rfl⟩⟩
theorem witness_StepKeepsConfiguration : GoesOn (step (small.setEvents [.writeCmd 0x30#32])) := ⟨_, rfl⟩

/-- PowerOnResets. -/
theorem witness_PowerOnResets : (small.setEvents [.powerOn]).phase = .idle ∧
    (small.setEvents [.powerOn]).events = .powerOn :: [] := ⟨rfl, rfl⟩

/-- HostRegisterAccess: each of its accesses as the oldest event. -/
theorem witness_HostRegisterAccess : small.phase = .idle ∧
    (small.setEvents [.access (.writeReg .pkY 0xFFFFFFFF#32)]).events = .access (.writeReg .pkY 0xFFFFFFFF#32) :: [] ∧
    (small.setEvents [.access (.readReg .inLen)]).events = .access (.readReg .inLen) :: [] ∧
    (small.setEvents [.access .readCmd]).events = .access .readCmd :: [] ∧
    (small.setEvents [.access (.writeErr 1#32)]).events = .access (.writeErr 1#32) :: [] ∧
    (small.setEvents [.access (.writeErrInfo 1#32)]).events = .access (.writeErrInfo 1#32) :: [] ∧
    (small.setEvents [.access .readErr]).events = .access .readErr :: [] ∧
    (small.setEvents [.access .readErrInfo]).events = .access .readErrInfo :: [] :=
  ⟨rfl, rfl, rfl, rfl, rfl, rfl, rfl, rfl⟩

/-- HostBufferAccess: the last index of a buffer, and the last word of `PIX`. -/
theorem witness_HostBufferAccess : small.phase = .idle ∧
    (small.setEvents [.access (.writeByte .ibuf 63 1#8)]).events = .access (.writeByte .ibuf 63 1#8) :: [] ∧
    63 < (small.setEvents [.access (.writeByte .ibuf 63 1#8)]).capacity .ibuf ∧
    (small.setEvents [.access (.readByte .ibuf 63)]).events = .access (.readByte .ibuf 63) :: [] ∧
    (small.setEvents [.access (.writePix 15 1#32)]).events = .access (.writePix 15 1#32) :: [] ∧
    15 < (small.setEvents [.access (.writePix 15 1#32)]).cfg.pixCap ∧
    (small.setEvents [.access (.readPix 15)]).events = .access (.readPix 15) :: [] :=
  ⟨rfl, rfl, by decide, rfl, rfl, by decide, rfl⟩

/-- ContextResets, LzPrimeResult, PkGtLanes, PkAddLanes, PkAvgLanes, PkMedLanes, BranchlessForms: a state without a
fault. -/
theorem witness_ContextResets : small.err = 0#8 := rfl
theorem witness_LzPrimeResult : small.err = 0#8 ∧ (31 : Nat) < 32 ∧ (15 : Nat) < 16 ∧ (3 : Nat) < 4 := by decide
theorem witness_PkGtLanes : small.err = 0#8 ∧ (3 : Nat) < 4 := by decide
theorem witness_PkAddLanes : small.err = 0#8 ∧ (3 : Nat) < 4 := by decide
theorem witness_PkAvgLanes : small.err = 0#8 ∧ (3 : Nat) < 4 := by decide
theorem witness_PkMedLanes : small.err = 0#8 ∧ (3 : Nat) < 4 := by decide
theorem witness_BranchlessForms : small.err = 0#8 := rfl

/-- LzStoreAndRestore: with a snapshot and without. -/
theorem witness_LzStoreAndRestore : small.err = 0#8 ∧ small.snapValid = false ∧
    (small.markSnapshot).snapValid = true ∧ (small.markSnapshot).err = 0#8 := ⟨rfl, rfl, rfl, rfl⟩

/-- SnapshotWrittenOnlyBy: a snapshot that differs from the bank, and a flag that is set. -/
theorem witness_SnapshotWrittenOnlyBy :
    leads (exec .lzStore (small.setSnap (Lzc.fresh.putByte 1#8)))
      (fun t => t.snap ≠ Lzc.fresh.putByte 1#8 ∧ t.snapValid ≠ small.snapValid) = true ∧
    leads (exec .lzCreset (small.markSnapshot)) (fun t => t.snapValid ≠ (small.markSnapshot).snapValid) = true := by
  decide +kernel

/-- A machine whose `IBUF` holds just what its worst case lets `OBUF` take. -/
def tight : State := withInput ((State.powerUp ⟨8, 9, 64, 16, true⟩ 0)) [1#8, 2#8, 3#8, 4#8, 5#8, 6#8, 7#8, 8#8]

/-- LzCompResult, CblkIsStoreCompRestore: the operands at the ends of the checks' ranges; and for the latter V-B3, the
equal size that is stored raw, and V-B4, one byte smaller, kept. -/
theorem witness_LzCompResult : tight.err = 0#8 ∧ tight.inLen ≤ tight.cfg.ibufCap ∧
    tight.inLen + (tight.inLen + 7) / 8 ≤ tight.cfg.obufCap := by decide +kernel
theorem witness_CblkIsStoreCompRestore : tight.err = 0#8 ∧ tight.cfg.Valid ∧ tight.inLen ≤ tight.cfg.ibufCap ∧
    tight.inLen + (tight.inLen + 7) / 8 ≤ tight.cfg.obufCap := by decide +kernel
theorem witness_CblkIsStoreCompRestore_sizes :
    (let s := withInput small [0#8, 0#8, 0#8, 0#8];
      s.err = 0#8 ∧ s.cfg.Valid ∧ s.inLen + (s.inLen + 7) / 8 ≤ s.cfg.obufCap ∧
        (compress s.lzc s.input).1.length = s.inLen) ∧
    (let s := withInput small [0#8, 0#8, 0#8, 0#8, 0#8];
      s.err = 0#8 ∧ s.cfg.Valid ∧ s.inLen + (s.inLen + 7) / 8 ≤ s.cfg.obufCap ∧
        (compress s.lzc s.input).1.length + 1 = s.inLen) := by decide +kernel

/-- A dictionary whose key-0 chain is position 20 alone, and position 7, of that key too, in no chain. -/
def loose : Lzc := (((Lzc.fresh.setMap 0#16 (some 20#12)).setNext 20#12 none).setPrev 7#12 none).setNext 7#12 none

/-- InsertAndDeleteChains: insert position 7 before 20; delete position 7 from the chain of all positions. -/
theorem witness_InsertAndDeleteChains :
    (loose.getPrev 7#12 = none ∧ loose.getNext 7#12 = none ∧
      loose.IsChain (loose.getMap (loose.key 7#12)) [20#12] ∧ (7#12 : Pos) ∉ [20#12]) ∧
    ∃ before after : List Pos, (∀ a b : Pos, Lzc.fresh.getNext a = some b ↔ Lzc.fresh.getPrev b = some a) ∧
      (Lzc.fresh.getPrev 7#12 = none ↔ Lzc.fresh.getMap (Lzc.fresh.key 7#12) = some 7#12) ∧
      Lzc.fresh.IsChain (Lzc.fresh.getMap (Lzc.fresh.key 7#12)) (before ++ 7#12 :: after) ∧
      (before ++ 7#12 :: after).Nodup := by
  refine ⟨⟨by decide +kernel, by decide +kernel, by simp only [Lzc.IsChain]; decide +kernel, by decide⟩, ?_⟩
  have ok := Lzc.ok_empty 0#12
  obtain ⟨ch, h1, h2, h3⟩ := ok.chains (Lzc.fresh.key 7#12)
  obtain ⟨before, after, h⟩ := List.append_of_mem ((h3 7#12).mpr rfl)
  exact ⟨before, after, ok.mutualLinks, ok.heads 7#12, h ▸ h1, h ▸ h2⟩

/-- PutByteKeepsInvariant, FindMatchIsLongest: a dictionary that satisfies the invariant, at its last position. -/
theorem witness_PutByteKeepsInvariant : Lzc.Ok ⟨[], [], [], [], 4095#12⟩ := Lzc.ok_empty 4095#12
theorem witness_FindMatchIsLongest : Lzc.Ok ⟨[], [], [], [], 0#12⟩ ∧ 3 ≤ (List.replicate 4 0#8).length ∧
    3 ≤ (Lzc.fresh.findMatch (List.replicate 4 0#8)).1 ∧ Lzc.fresh.Usable (List.replicate 4 0#8) 1#12 3 := by
  refine ⟨Lzc.ok_empty 0#12, by decide, by decide +kernel, ?_⟩
  unfold Lzc.Usable
  decide +kernel

/-- StepKeepsDictionaries: the dictionary after power-on, with a step. -/
theorem witness_StepKeepsDictionaries : (small.setEvents [.writeCmd 0x12#32]).DictsOk ∧
    GoesOn (step (small.setEvents [.writeCmd 0x12#32])) :=
  ⟨⟨Lzc.ok_empty 0#12, fun h => absurd h (by decide)⟩, ⟨_, rfl⟩⟩

/-- RoundTripKeepsInStep: three bytes compressed, and the four bytes they become in the input of another machine. -/
theorem witness_RoundTripKeepsInStep :
    (let s := withInput small [0x61#8, 0x62#8, 0x63#8];
      s.err = 0#8 ∧ s.cfg.Valid ∧ s.inLen ≤ s.cfg.ibufCap ∧ s.inLen + (s.inLen + 7) / 8 ≤ s.cfg.obufCap) ∧
    (withInput small [0x61#8, 0x62#8, 0x63#8]).lzc.Ok ∧
    InStep (withInput small [0x61#8, 0x62#8, 0x63#8]).lzc (withInput small [0#8, 0x61#8, 0x62#8, 0x63#8]).lzd ∧
    (let d := withInput small [0#8, 0x61#8, 0x62#8, 0x63#8];
      d.err = 0#8 ∧ d.inLen ≤ d.cfg.ibufCap ∧ 3 ≤ d.cfg.obufCap ∧
        leads (exec .lzComp (withInput small [0x61#8, 0x62#8, 0x63#8])) (fun t => d.input = output t) = true) :=
  ⟨by decide +kernel, Lzc.ok_empty 0#12, ⟨fun _ => rfl, rfl⟩, by decide +kernel⟩

/-- CtrlResult: a byte follows, and none does. -/
theorem witness_CtrlResult : (decompressing [1#8, 2#8] 0 0 0 0#8).err = 0#8 ∧
    (decompressing [1#8, 2#8] 0 0 0 0#8).lz.ip + 1 ≠ (decompressing [1#8, 2#8] 0 0 0 0#8).inLen ∧
    (decompressing [1#8] 0 0 0 0#8).lz.ip + 1 = (decompressing [1#8] 0 0 0 0#8).inLen := by decide +kernel

/-- LitResult, MatchResult, OverlappingMatchRepeats, TokenFaults: output that ends exactly at `OBUF_CAP`, and output
one byte past it; a match cut after its first and after its second byte. -/
theorem witness_LitResult : (decompressing [] 0 127 1 0#8).err = 0#8 ∧
    (decompressing [] 0 127 1 0#8).lz.op + 1 ≤ (decompressing [] 0 127 1 0#8).cfg.obufCap := by decide +kernel
theorem witness_MatchResult : (decompressing [] 0 111 1 1#8).err = 0#8 ∧
    (decompressing [] 0 111 1 1#8).lz.op + ((14#4).toNat + 3) ≤ (decompressing [] 0 111 1 1#8).cfg.obufCap ∧
    (decompressing [] 0 110 1 1#8).lz.op + (18 + (0#8).toNat) ≤ (decompressing [] 0 110 1 1#8).cfg.obufCap := by
  decide +kernel
/-- OverlappingMatchRepeats: the last byte repeated (`w` = 1, short form), and the whole ring (`w` = 4096, long form). -/
theorem witness_OverlappingMatchRepeats :
    (let s := decompressing [] 0 111 1 1#8;
      s.err = 0#8 ∧ (∃ lc : BitVec 4, Instr.lzMatch 0xFFF#12 14#4 = .lzMatch (s.lzd.dr - BitVec.ofNat 12 1) lc ∧
        17 = lc.toNat + 3) ∧ s.lz.op + 17 ≤ s.cfg.obufCap) ∧
    (let s := decompressing [] 0 110 1 1#8;
      s.err = 0#8 ∧ (∃ ext : Byte, Instr.lzMatchx 0#12 0#8 = .lzMatchx (s.lzd.dr - BitVec.ofNat 12 4096) ext ∧
        18 = 18 + ext.toNat) ∧ s.lz.op + 18 ≤ s.cfg.obufCap) :=
  ⟨⟨by decide, ⟨14#4, by decide, by decide⟩, by decide⟩, ⟨by decide, ⟨0#8, by decide, by decide⟩, by decide⟩⟩
theorem witness_TokenFaults : (decompressing [] 0 128 1 0#8).err = 0#8 ∧
    (decompressing [] 0 128 1 0#8).cfg.obufCap < (decompressing [] 0 128 1 0#8).lz.op + 1 ∧
    (decompressing [] 0 111 1 0#8).cfg.obufCap < (decompressing [] 0 111 1 0#8).lz.op + (18 + (0#8).toNat) ∧
    (decompressing [1#8, 5#8] 1 0 8 1#8).phase = .lzDecomp ∧
    (decompressing [1#8, 5#8] 1 0 8 1#8).inLen = (decompressing [1#8, 5#8] 1 0 8 1#8).lz.ip + 1 ∧
    (decompressing [1#8, 5#8] 1 0 8 1#8).lz.ctrl.getLsbD 0 = true ∧
    (decompressing [1#8, 5#8, 0xF0#8] 1 0 8 1#8).inLen = (decompressing [1#8, 5#8, 0xF0#8] 1 0 8 1#8).lz.ip + 2 ∧
    ((decompressing [1#8, 5#8, 0xF0#8] 1 0 8 1#8).readByte .ibuf 2).extractLsb' 4 4 = 15#4 := by decide +kernel

/-- LzDecompDecodesTokens: V-D3 as tokens; and V-D10, seven unused control bits that are 1. -/
theorem witness_LzDecompDecodesTokens : (withInput small [0x02#8, 0x41#8, 0x00#8, 0x20#8]).err = 0#8 ∧
    (withInput small [0x02#8, 0x41#8, 0x00#8, 0x20#8]).inLen ≤ 64 ∧
    (∀ t ∈ [LzToken.lit 0x41#8, .short 0#12 2#4], tokenProper t = true) ∧
    (withInput small [0x02#8, 0x41#8, 0x00#8, 0x20#8]).input =
      streamWithSpare 0 [LzToken.lit 0x41#8, .short 0#12 2#4].length [LzToken.lit 0x41#8, .short 0#12 2#4] ∧
    (Lzd.fresh.items [LzToken.lit 0x41#8, .short 0#12 2#4]).2.length ≤ 128 ∧
    (withInput small [0xFE#8, 0x41#8]).input = streamWithSpare 0x7F 1 [.lit 0x41#8] := by decide +kernel

/-- CommandsAreTheirItems: an input, and a pool. -/
theorem witness_CommandsAreTheirItems : (withInput small [0x00#8, 0x41#8]).err = 0#8 ∧
    (withInput small [0x00#8, 0x41#8]).inLen ≤ (withInput small [0x00#8, 0x41#8]).cfg.ibufCap ∧
    firstFailing (grChecks (withPool small [0x07#8, 0#8, 0#8, 0#8] 1 1#32 0#32)) = none ∧
    0 < (withPool small [0x07#8, 0#8, 0#8, 0#8] 1 1#32 0#32).pixCount ∧
    0 < (withPool small [0x07#8, 0#8, 0#8, 0#8] 1 1#32 0#32).poolLen := by decide +kernel

/-- LzDecompFrame, GrDecFrame: the commands answer a next state; without a fault one byte after V-D10's, and with one. -/
theorem witness_LzDecompFrame : GoesOn (exec .lzDecomp small) ∧ small.err = 0#8 ∧ small.cfg.Valid ∧
    leads (exec .lzDecomp (withInput small [0xFE#8, 0x41#8])) (fun t => t.err = 0#8 ∧ t.x.outLen.toNat ≤ 1) = true ∧
    leads (exec .lzDecomp (withInput small [0xFE#8])) (fun t => t.err = 4#8) = true :=
  ⟨⟨_, rfl⟩, rfl, by decide, by decide +kernel, by decide +kernel⟩
theorem witness_GrDecFrame : GoesOn (exec .grDec small) ∧ ¬(withPool small [] 1 0#32 3#32).targets 2 :=
  ⟨⟨_, rfl⟩, by unfold State.targets; decide +kernel⟩

/-- GammaResult: a zero run and a non-zero run that end exactly with the pixels wanted. -/
theorem witness_GammaResult : (decoding [] 4 ⟨0, 1⟩ 0 3 0 true).err = 0#8 ∧
    (decoding [] 4 ⟨0, 1⟩ 0 3 0 true).gr.i + (2 ^ 2 + 0) ≤ (decoding [] 4 ⟨0, 1⟩ 0 3 0 true).gr.lim ∧
    (decoding [] 4 ⟨0, 1⟩ 0 3 0 true).x.chan.toNat ≤ 3 ∧ (decoding [] 4 ⟨0, 1⟩ 0 3 0 true).gr.zero = true ∧
    (decoding [] 4 ⟨0, 1⟩ 0 3 0 false).gr.zero = false := by decide +kernel

/-- ResidualResult: the last accumulator value in range, and lane 3. -/
theorem witness_ResidualResult : (decoding [] 4 ⟨0, 1⟩ 1023 0 1 false).err = 0#8 ∧
    (decoding [] 4 ⟨0, 1⟩ 1023 0 1 false).gr.a < 1024 ∧
    ((decoding [] 4 ⟨0, 1⟩ 1023 0 1 false).setX { Regs.zero with chan := 3#32 }).x.chan.toNat ≤ 3 := by decide +kernel

/-- GolombFaults: a count one past the pixels wanted, and the shortest that is too long; the first accumulator value out
of range, on its own and inside `GR.DEC`; an empty pool; a count code with 25 zeros, and a suffix window one byte past
the pool, inside `GR.DEC`; a window one byte past the pool for a residual. -/
theorem witness_GolombFaults :
    (let s := decoding [] 3 ⟨0, 1⟩ 0 3 0 true;
      s.x.chan.toNat ≤ 3 ∧ s.err = 0#8 ∧ s.gr.lim < s.gr.i + (2 ^ 2 + 0) ∧ 25 ≤ 25) ∧
    (let s := decoding [] 4 ⟨0, 1⟩ 1024 3 1 false;
      s.x.chan.toNat ≤ 3 ∧ s.err = 0#8 ∧ 1024 ≤ s.gr.a ∧ s.phase = .grDec ∧ s.gr.run ≠ 0) ∧
    (let s := withPool small [] 1 1#32 0#32;
      s.x.chan.toNat ≤ 3 ∧ s.err = 0#8 ∧ firstFailing (grChecks s) = none ∧ 0 < s.pixCount ∧ s.poolLen = 0) ∧
    (let s := decoding [0#8, 0#8, 0#8, 4#8, 0#8, 0#8, 0#8] 1 ⟨0, 1⟩ 0 3 0 true;
      s.phase = .grDec ∧ s.gr.run = 0 ∧ s.gr.i < s.gr.lim ∧
        gammaAt s.poolByte s.poolLen s.gr.cur = .reject .countTooLong) ∧
    (let s := decoding [0x80#8, 0#8, 0#8, 0#8] 1 ⟨0, 7⟩ 0 3 0 true;
      s.phase = .grDec ∧ s.gr.run = 0 ∧ s.gr.i < s.gr.lim ∧
        gammaAt s.poolByte s.poolLen s.gr.cur = .reject (.poolRange 1)) ∧
    (let s := decoding [1#8, 1#8, 1#8] 1 ⟨0, 1⟩ 1023 3 1 false;
      s.x.chan.toNat ≤ 3 ∧ s.phase = .grDec ∧ s.gr.run ≠ 0 ∧ s.gr.a < 1024 ∧
        valueAt s.poolByte s.poolLen (gbl s.gr.a s.gr.n) s.gr.cur = .reject (.poolRange 0)) := by
  decide +kernel
/-- GolombFaults, the bits: after twelve zeros; the suffix window; the quotient byte and the window after it, each at the
first byte past the pool; and 25 zeros. -/
theorem witness_GolombFaults_bits :
    SkipMisses (poolOf []) 4 ⟨0, 1⟩ 1 1 ∧ GammaMisses (poolOf [0x80#8]) 4 ⟨0, 7⟩ 1 ∧
    ValueMisses (poolOf []) 4 ⟨0, 0⟩ 4 ∧ ValueMisses (poolOf []) 5 ⟨0, 0⟩ 5 ∧
    ZerosThenOne (poolOf [0#8, 0#8, 0#8, 4#8]) ⟨0, 1⟩ 25 ∧ FindsOne 7 ⟨0, 1⟩ 25 :=
  ⟨by unfold SkipMisses; decide +kernel, .inr ⟨0, by unfold ZerosThenOne FindsOne; decide +kernel⟩,
    .inr (.inr (by decide +kernel)), .inr (.inr (by decide +kernel)),
    by unfold ZerosThenOne; decide +kernel, by unfold FindsOne; decide +kernel⟩

/-- V-G5's pool: three zeros, +5, one zero. -/
def bandPool : State := withPool small [0x1C#8, 0x60#8, 0#8, 0#8, 0#8, 0#8] 5 1#32 0#32

/-- GrDecDecodesRuns: V-G5, with as little padding as R203 allows. -/
theorem witness_GrDecDecodesRuns : bandPool.err = 0#8 ∧ bandPool.cfg.Valid ∧ bandPool.x.chan.toNat ≤ 3 ∧
    bandPool.x.first.toNat ≤ 1 ∧ (bandPool.x.first.toNat = 1 → bandPool.x.chan.toNat = 0) ∧
    bandPool.poolLen ≤ bandPool.cfg.poolCap ∧ bandPool.pixBase + bandPool.pixCount ≤ bandPool.cfg.pixCap ∧
    0 < bandPool.pixCount ∧ alternates (!false) [.zeros 3, .values [8], .zeros 1] = true ∧
    GrContext.encodesRuns ⟨1, 3, 0⟩ [.zeros 3, .values [8], .zeros 1] = true ∧
    (residuals bandPool.cfg.evenPositive [.zeros 3, .values [8], .zeros 1]).length = bandPool.pixCount ∧
    (∀ j : Nat, j < (poolBits false [.zeros 3, .values [8], .zeros 1]).length →
      (poolBits false [.zeros 3, .values [8], .zeros 1])[j]? = some (streamBit bandPool.poolByte j)) ∧
    ((poolBits false [.zeros 3, .values [8], .zeros 1]).length - 1) / 8 + 5 ≤ bandPool.poolLen := by decide +kernel

/-- A machine that differs from that one in a dictionary and in a register that `GR.DEC` does not read. -/
def otherBand : State := (bandPool.setLzc (Lzc.fresh.putByte 1#8)).setMark 1#32

/-- GrDecDeterminism. -/
theorem witness_GrDecDeterminism : bandPool.err = 0#8 ∧ otherBand.err = 0#8 ∧
    bandPool.x.pixBase = otherBand.x.pixBase ∧ bandPool.x.pixCount = otherBand.x.pixCount ∧
    bandPool.x.chan = otherBand.x.chan ∧ bandPool.x.first = otherBand.x.first ∧
    bandPool.x.poolLen = otherBand.x.poolLen ∧ bandPool.cfg = otherBand.cfg ∧
    (∀ a : Nat, a < bandPool.poolLen → bandPool.readByte .pool a = otherBand.readByte .pool a) ∧
    leads (exec .grDec bandPool) (fun t => t.err = 0#8) = true :=
  ⟨rfl, rfl, rfl, rfl, rfl, rfl, rfl, rfl, fun _ _ => rfl, by decide +kernel⟩

/-- OperandChecksInOrder: each check's first failing value, the earlier ones passing. -/
theorem witness_OperandChecksInOrder :
    (let s := small.setX { Regs.zero with inLen := 65#32 }; s.err = 0#8 ∧ s.cfg.ibufCap < s.inLen) ∧
    (let s := (State.powerUp ⟨8, 8, 64, 16, true⟩ 0).setX { Regs.zero with inLen := 8#32 };
      s.err = 0#8 ∧ s.inLen ≤ s.cfg.ibufCap ∧ s.cfg.obufCap < s.inLen + (s.inLen + 7) / 8) ∧
    (let s := small.setX { Regs.zero with chan := 4#32 }; s.err = 0#8 ∧ 3 < s.x.chan.toNat) ∧
    (let s := small.setX { Regs.zero with chan := 3#32, first := 2#32 };
      s.err = 0#8 ∧ s.x.chan.toNat ≤ 3 ∧ 1 < s.x.first.toNat) ∧
    (let s := small.setX { Regs.zero with chan := 1#32, first := 1#32 };
      s.err = 0#8 ∧ s.x.chan.toNat ≤ 3 ∧ s.x.first.toNat = 1 ∧ s.x.chan.toNat ≠ 0) ∧
    (let s := small.setX { Regs.zero with chan := 3#32, poolLen := 65#32 };
      s.err = 0#8 ∧ s.x.chan.toNat ≤ 3 ∧ s.x.first.toNat ≤ 1 ∧ (s.x.first.toNat = 1 → s.x.chan.toNat = 0) ∧
        s.cfg.poolCap < s.poolLen) ∧
    (let s := small.setX { Regs.zero with first := 1#32, poolLen := 64#32, pixBase := 16#32, pixCount := 1#32 };
      s.err = 0#8 ∧ s.x.chan.toNat ≤ 3 ∧ s.x.first.toNat ≤ 1 ∧ (s.x.first.toNat = 1 → s.x.chan.toNat = 0) ∧
        s.poolLen ≤ s.cfg.poolCap ∧ s.cfg.pixCap < s.pixBase + s.pixCount) := by decide +kernel

/-- ZeroLengthCommands. -/
theorem witness_ZeroLengthCommands : small.err = 0#8 ∧ small.x.inLen = 0#32 ∧ small.x.pixCount = 0#32 ∧
    firstFailing (grChecks small) = none := by decide +kernel

/-- StepKeepsCanonical: the state after power-on, with a step. -/
theorem witness_StepKeepsCanonical : (small.setEvents [.writeCmd 0x11#32]).Canonical ∧
    GoesOn (step (small.setEvents [.writeCmd 0x11#32])) := by
  refine ⟨⟨fun sp => by cases sp <;> exact List.Pairwise.nil, Lzc.canonical_fresh, ⟨List.Pairwise.nil, ?_⟩,
    fun h => absurd h (by decide)⟩, ⟨_, rfl⟩⟩
  exact fun e he => absurd he List.not_mem_nil

/-- StepKeepsInside: a machine inside `GR.DEC` with as many pixels wanted as `PIX` has words. -/
theorem witness_StepKeepsInside : (decoding [] 16 ⟨0, 1⟩ 0 3 0 true).Inside ∧
    (decoding [] 16 ⟨0, 1⟩ 0 3 0 true).GrInside ∧ GoesOn (step (decoding [] 16 ⟨0, 1⟩ 0 3 0 true)) := by
  refine ⟨fun sp e he => by cases sp <;> exact absurd he List.not_mem_nil, fun _ => by decide +kernel, ⟨_, rfl⟩⟩

end Sys2Proof.Tests
end

section
/-! PROOFS. The step (spec/00_scope.md R10): which of its moves a step makes, what each move can do to a running
command, and that both command loops come to their end within their fuel. Settles O7, O15, O16, O17, O19, O43. -/

namespace Sys2Proof.Machine

/-! ## Which move a step makes -/

/-- The host's write of a command's word is dispatched to that command's meaning (R22, R241). -/
theorem step_of_command {s : State} {w : Word} {rest : List Event} {i : Instr} (hp : s.phase = .idle)
    (he : s.events = .writeCmd w :: rest) (hd : decodeCommand w = .ok i) :
    step s = exec i (s.setEvents rest) := by
  simp only [step, fetch, fetchEvent, hp, he, hd]

/-- A stream item's meaning as an instruction is what it does, behind the prologue. -/
theorem exec_tokenInstr (t : LzToken) (s : State) : exec t.instr s = .next (whenReady (runToken t) s) := by
  cases t <;> rfl

/-- A Golomb code's meaning as an instruction is what it does, behind the prologue. -/
theorem exec_codeInstr (c : GrCode) (s : State) : exec c.instr s = .next (whenReady (runCode c) s) := by
  cases c <;> rfl

/-- Inside `LZ.DECOMP` a step is one move of the command, or refused because `ERR` is not 0. -/
theorem step_lzDecomp_cases {s : State} (hp : s.phase = .lzDecomp) :
    step s = .next (lzMicro s) ∨ (s.err ≠ 0#8 ∧ step s = .next s) := by
  simp only [step, fetch, hp, fetchToken, lzMicro]
  cases lzFetch s with
  | done => exact .inl rfl
  | raise c info => exact .inl rfl
  | token t =>
    simp only [exec_tokenInstr]
    by_cases he : s.err = 0#8
    · exact .inl (by rw [whenReady_ready _ s he])
    · exact .inr ⟨he, by rw [whenReady_faulted _ s he]⟩

/-- Inside `GR.DEC` a step is one move of the command, or refused because `ERR` is not 0. -/
theorem step_grDec_cases {s : State} (hp : s.phase = .grDec) :
    step s = .next (grMicro s) ∨ (s.err ≠ 0#8 ∧ step s = .next s) := by
  simp only [step, fetch, hp, fetchCode, grMicro]
  cases grFetch s with
  | done => exact .inl rfl
  | raise c info => exact .inl rfl
  | code c =>
    simp only [exec_codeInstr]
    by_cases he : s.err = 0#8
    · exact .inl (by rw [whenReady_ready _ s he])
    · exact .inr ⟨he, by rw [whenReady_faulted _ s he]⟩

/-- Without a fault, a step inside `LZ.DECOMP` is one move of it. -/
theorem step_of_lzDecomp {s : State} (hp : s.phase = .lzDecomp) (he : s.err = 0#8) :
    step s = .next (lzMicro s) := (step_lzDecomp_cases hp).resolve_right fun h => h.1 he

/-- Without a fault, a step inside `GR.DEC` is one move of it. -/
theorem step_of_grDec {s : State} (hp : s.phase = .grDec) (he : s.err = 0#8) :
    step s = .next (grMicro s) := (step_grDec_cases hp).resolve_right fun h => h.1 he

/-- The moves of the machine, each with its outcome. -/
inductive StepRule (s : State) : Host.Outcome State Fault Refusal → Prop
  /-- nothing is pending: the block waits -/
  | waits (hp : s.phase = .idle) (he : s.events = []) : StepRule s (.next s)
  /-- power-on reset -/
  | powersOn (hp : s.phase = .idle) (rest : List Event) (he : s.events = .powerOn :: rest) :
      StepRule s (.next (powerOnReset (s.setEvents rest)))
  /-- a host access -/
  | accesses (hp : s.phase = .idle) (a : HostAccess) (rest : List Event) (he : s.events = .access a :: rest) :
      StepRule s (hostAccess a (s.setEvents rest))
  /-- a command -/
  | commands (hp : s.phase = .idle) (w : Word) (rest : List Event) (i : Instr) (he : s.events = .writeCmd w :: rest)
      (hd : decodeCommand w = .ok i) : StepRule s (exec i (s.setEvents rest))
  /-- a word that is no command -/
  | illegal (hp : s.phase = .idle) (w : Word) (rest : List Event) (r : Reject) (he : s.events = .writeCmd w :: rest)
      (hd : decodeCommand w = .reject r) : StepRule s (.next (illegalCommand w (s.setEvents rest)))
  /-- a move inside `LZ.DECOMP` -/
  | lzMove (hp : s.phase = .lzDecomp) : StepRule s (.next (lzMicro s))
  /-- a move inside `GR.DEC` -/
  | grMove (hp : s.phase = .grDec) : StepRule s (.next (grMicro s))
  /-- an item or a code while `ERR` is not 0 (assumption log 23) -/
  | refused (hp : s.phase ≠ .idle) (he : s.err ≠ 0#8) : StepRule s (.next s)

/-- Every step is one of the moves. -/
theorem step_rule (s : State) : StepRule s (step s) := by
  cases hp : s.phase with
  | idle =>
    cases he : s.events with
    | nil => simpa only [step, fetch, fetchEvent, hp, he] using StepRule.waits hp he
    | cons e rest =>
      cases e with
      | powerOn => simpa only [step, fetch, fetchEvent, hp, he] using StepRule.powersOn hp rest he
      | access a => simpa only [step, fetch, fetchEvent, hp, he] using StepRule.accesses hp a rest he
      | writeCmd w =>
        cases hd : decodeCommand w with
        | ok i => simpa only [step_of_command hp he hd] using StepRule.commands hp w rest i he hd
        | reject r => simpa only [step, fetch, fetchEvent, hp, he, hd] using StepRule.illegal hp w rest r he hd
  | lzDecomp =>
    rcases step_lzDecomp_cases hp with h | ⟨he, h⟩ <;> rw [h]
    · exact .lzMove hp
    · exact .refused (by simp [hp]) he
  | grDec =>
    rcases step_grDec_cases hp with h | ⟨he, h⟩ <;> rw [h]
    · exact .grMove hp
    · exact .refused (by simp [hp]) he

/-! ## Which words are commands -/

/-- The instruction is one of the fourteen commands: no stream item and no Golomb code (R92). -/
def isCommand : Instr → Bool
  | .ctrl _ | .lit _ | .lzMatch _ _ | .lzMatchx _ _ | .gamma _ _ | .golomb _ _ | .golombx _ _ => false
  | _ => true

theorem opcodeInstr_mem {op : Nat} {i : Instr} (h : opcodeInstr op = some i) : i ∈ opcodeTable.map Prod.snd := by
  obtain ⟨e, he, rfl⟩ := Option.map_eq_some_iff.mp h
  exact List.mem_map_of_mem (List.mem_of_find?_eq_some he)

/-- A word written to `CMD` decodes to commands only. -/
theorem isCommand_of_decodeCommand {w : Word} {i : Instr} (h : decodeCommand w = .ok i) : isCommand i = true := by
  have hall : ∀ j ∈ opcodeTable.map Prod.snd, isCommand j = true := by decide
  unfold decodeCommand at h
  split at h
  · split at h
    · next j hj =>
      cases h
      exact hall _ (opcodeInstr_mem hj)
    · cases h
  · cases h

/-! ## What an instruction does to the running command -/

/-- Both states have the same configuration, and the same command running at the same place. -/
structure State.SameControl (s t : State) : Prop where
  /-- the configuration -/
  cfg : t.cfg = s.cfg
  /-- which command is running -/
  phase : t.phase = s.phase
  /-- the transient values of `LZ.DECOMP` -/
  lz : t.lz = s.lz
  /-- the transient values of `GR.DEC` -/
  gr : t.gr = s.gr

theorem State.SameControl.refl (s : State) : s.SameControl s := ⟨rfl, rfl, rfl, rfl⟩

theorem State.SameControl.trans {s t u : State} (h : s.SameControl t) (h' : t.SameControl u) : s.SameControl u :=
  ⟨h'.cfg.trans h.cfg, h'.phase.trans h.phase, h'.lz.trans h.lz, h'.gr.trans h.gr⟩

theorem State.SameControl.idle {s t : State} (h : s.SameControl t) (hs : s.Idle) : t.Idle := by
  obtain ⟨hp, hl, hg⟩ := hs
  exact ⟨h.phase.trans hp, h.lz.trans hl, h.gr.trans hg⟩

theorem raise_sameControl (c : Cause) (info : Nat) (s : State) : s.SameControl (raise c info s) :=
  ⟨rfl, rfl, rfl, rfl⟩

theorem State.writeBytes_sameControl (s : State) (sp : Space) (a : Nat) (bs : List Byte) :
    s.SameControl (s.writeBytes sp a bs) := by
  obtain ⟨m, hm⟩ := s.writeBytes_frame sp a bs
  rw [hm]
  exact ⟨s.cfg_setMem sp m, s.phase_setMem sp m, s.lz_setMem sp m, s.gr_setMem sp m⟩

theorem State.setLzc_sameControl (s : State) (l : Lzc) : s.SameControl (s.setLzc l) := ⟨rfl, rfl, rfl, rfl⟩

theorem State.setOutLen_sameControl (s : State) (v : Word) : s.SameControl (s.setOutLen v) := ⟨rfl, rfl, rfl, rfl⟩

theorem State.setMark_sameControl (s : State) (v : Word) : s.SameControl (s.setMark v) := ⟨rfl, rfl, rfl, rfl⟩

theorem State.setEvents_sameControl (s : State) (es : List Event) : s.SameControl (s.setEvents es) :=
  ⟨rfl, rfl, rfl, rfl⟩

theorem lzComp_sameControl (s : State) : s.SameControl (lzComp s) :=
  (s.writeBytes_sameControl .obuf 0 _).trans ((State.setLzc_sameControl _ _).trans (State.setOutLen_sameControl _ _))

theorem storeRaw_sameControl (s : State) : s.SameControl (storeRaw s) := by
  obtain ⟨m, hm⟩ := storeRaw_frame s
  rw [hm]
  exact ⟨rfl, rfl, rfl, rfl⟩

theorem lzRestore_sameControl (s : State) : s.SameControl (lzRestore s) := by
  unfold lzRestore
  split
  · exact ⟨rfl, rfl, rfl, rfl⟩
  · exact raise_sameControl _ _ s

theorem lzCblk_sameControl (s : State) : s.SameControl (lzCblk s) := by
  have hattempt : s.SameControl (lzComp (lzStore s)) :=
    State.SameControl.trans (t := lzStore s) ⟨rfl, rfl, rfl, rfl⟩ (lzComp_sameControl _)
  unfold lzCblk
  split
  · exact hattempt.trans (State.setMark_sameControl _ _)
  · exact hattempt.trans (storeRaw_sameControl _)

theorem whenReady_sameControl {f : State → State} {s : State} (h : s.SameControl (f s)) :
    s.SameControl (whenReady f s) :=
  whenReady_cases s.SameControl f s (.refl s) fun _ => h

theorem checked_sameControl {checks : State → List (Bool × Nat)} {f : State → State} {s : State}
    (h : s.SameControl (f s)) : s.SameControl (checked checks f s) :=
  checked_cases s.SameControl checks f s (fun k _ => raise_sameControl .badOperand k s) fun _ => h

/-- The kinds of instructions, by what they do to the running command. -/
inductive ExecKind (s : State) : Instr → Prop
  | sysReset : ExecKind s .sysReset
  | lzDecomp : ExecKind s .lzDecomp
  | grDec : ExecKind s .grDec
  /-- a stream item of `LZ.DECOMP` -/
  | token (t : LzToken) : ExecKind s t.instr
  /-- a code of `GR.DEC` -/
  | code (c : GrCode) : ExecKind s c.instr
  /-- a command without transient values, behind the prologue -/
  | plain (i : Instr) (f : State → State) (hexec : exec i s = .next (whenReady f s)) (hf : s.SameControl (f s)) :
    ExecKind s i

/-- Every instruction is of one of the kinds. -/
theorem exec_kind (i : Instr) (s : State) : ExecKind s i := by
  cases i with
  | sysReset => exact .sysReset
  | lzCreset => exact .plain _ _ rfl ⟨rfl, rfl, rfl, rfl⟩
  | lzComp => exact .plain _ _ rfl (checked_sameControl (lzComp_sameControl s))
  | lzStore => exact .plain _ _ rfl ⟨rfl, rfl, rfl, rfl⟩
  | lzRestore => exact .plain _ _ rfl (lzRestore_sameControl s)
  | lzCblk => exact .plain _ _ rfl (checked_sameControl (lzCblk_sameControl s))
  | lzDreset => exact .plain _ _ rfl ⟨rfl, rfl, rfl, rfl⟩
  | lzPrime => exact .plain _ _ rfl ⟨rfl, rfl, rfl, rfl⟩
  | lzDecomp => exact .lzDecomp
  | grDec => exact .grDec
  | pkGt => exact .plain _ _ rfl ⟨rfl, rfl, rfl, rfl⟩
  | pkAdd => exact .plain _ _ rfl ⟨rfl, rfl, rfl, rfl⟩
  | pkAvg => exact .plain _ _ rfl ⟨rfl, rfl, rfl, rfl⟩
  | pkMed => exact .plain _ _ rfl ⟨rfl, rfl, rfl, rfl⟩
  | ctrl f => exact .token (.ctrl f)
  | lit c => exact .token (.lit c)
  | lzMatch p lc => exact .token (.short p lc)
  | lzMatchx p e => exact .token (.long p e)
  | gamma z k => exact .code (.gamma z k)
  | golomb q r => exact .code (.golomb q r)
  | golombx q r => exact .code (.golombx q r)

/-! ## What a stream item and a move of `LZ.DECOMP` can do -/

theorem lzAbort_idle (c : Cause) (info : Nat) (s : State) : (lzAbort c info s).Idle :=
  ⟨lzAbort_phase c info s, lzAbort_lz c info s, lzAbort_gr c info s⟩

theorem lzFinish_idle (s : State) : (lzFinish s).Idle := ⟨rfl, rfl, rfl⟩

/-- A token's control bit and bytes are used up together. -/
theorem State.useControlBit_skipInput (s : State) (n : Nat) : (s.useControlBit).skipInput n =
    s.setLz { s.lz with ip := s.lz.ip + n, ctrl := s.lz.ctrl >>> 1, nbits := s.lz.nbits - 1 } := rfl

/-- A literal ends the command with a fault, or changes the ring, `OBUF` and the stream's transient values (R174). -/
theorem litItem_cases (c : Byte) (s : State) :
    (∃ (e : Cause) (info : Nat), litItem c s = lzAbort e info s) ∨
      ∃ (d : Lzd) (m : Memory) (l : LzCursor), litItem c s = ((s.setLzd d).setObuf m).setLz l ∧
        l.ip = s.lz.ip + 1 := by
  unfold litItem
  split
  · exact .inl ⟨_, _, rfl⟩
  · rw [State.useControlBit_skipInput, State.emit_eq, State.setLz_setLzd, State.setLz_setObuf, State.setLz_setLz]
    exact .inr ⟨_, _, _, rfl, rfl⟩

/-- A match ends the command with a fault, or changes the ring, `OBUF` and the stream's transient values (R175). -/
theorem matchItem_cases (bytes len : Nat) (p : Pos) (s : State) :
    (∃ (e : Cause) (info : Nat), matchItem bytes len p s = lzAbort e info s) ∨
      ∃ (d : Lzd) (m : Memory) (l : LzCursor), matchItem bytes len p s = ((s.setLzd d).setObuf m).setLz l ∧
        l.ip = s.lz.ip + bytes := by
  unfold matchItem
  split
  · exact .inl ⟨_, _, rfl⟩
  · obtain ⟨m, hm⟩ := copyMatch_frame len p ((s.useControlBit).skipInput bytes)
    rw [State.useControlBit_skipInput, State.setLz_setLzd, State.setLz_setObuf, State.setLz_setLz] at hm
    exact .inr ⟨_, m, _, hm, rfl⟩

/-- A stream item ends the command with a fault, or changes the ring, `OBUF` and the stream's transient values and moves
past its bytes (R173 to R175). -/
theorem runToken_cases (t : LzToken) (s : State) :
    (∃ (c : Cause) (info : Nat), runToken t s = lzAbort c info s) ∨
      ∃ (d : Lzd) (m : Memory) (l : LzCursor), runToken t s = ((s.setLzd d).setObuf m).setLz l ∧
        l.ip = s.lz.ip + t.bytes.length := by
  cases t with
  | ctrl f =>
    simp only [runToken, ctrlItem]
    split
    · exact .inl ⟨_, _, rfl⟩
    · exact .inr ⟨s.lzd, s.obuf, _, rfl, rfl⟩
  | lit c => exact litItem_cases c s
  | short p lc => exact matchItem_cases 2 (shortLen lc) p s
  | long p e => exact matchItem_cases 3 (longLen e) p s

theorem token_bytes_length_pos (t : LzToken) : 0 < t.bytes.length := by cases t <;> simp [LzToken.bytes]

/-- An item is fetched only while there is input left. -/
theorem lt_inLen_of_lzFetch {s : State} {t : LzToken} (h : lzFetch s = .token t) : s.lz.ip < s.inLen := by
  by_contra hip
  rw [lzFetch, if_pos (by omega)] at h
  cases h

/-- A move of `LZ.DECOMP` ends the command, or takes input and touches nothing but the ring, `OBUF` and the stream's
transient values. -/
theorem lzMicro_cases (s : State) :
    lzMicro s = lzFinish s ∨ (∃ (c : Cause) (info : Nat), lzMicro s = lzAbort c info s) ∨
      ∃ (d : Lzd) (m : Memory) (l : LzCursor), lzMicro s = ((s.setLzd d).setObuf m).setLz l ∧
        s.lz.ip < s.inLen ∧ s.lz.ip < l.ip := by
  unfold lzMicro
  cases hf : lzFetch s with
  | done => exact .inl rfl
  | raise c info => exact .inr (.inl ⟨c, info, rfl⟩)
  | token t =>
    rcases runToken_cases t s with ⟨c, info, h⟩ | ⟨d, m, l, h, hl⟩
    · exact .inr (.inl ⟨c, info, h⟩)
    · have hpos := token_bytes_length_pos t
      exact .inr (.inr ⟨d, m, l, h, lt_inLen_of_lzFetch hf, by omega⟩)

/-! ## What a code and a move of `GR.DEC` can do -/

theorem grAbort_idle (c : Cause) (info : Nat) (s : State) : (grAbort c info s).Idle := by
  obtain ⟨m, hm⟩ := grAbort_frame c info s
  rw [hm]
  exact ⟨rfl, rfl, rfl⟩

theorem grAbort_cfg (c : Cause) (info : Nat) (s : State) : (grAbort c info s).cfg = s.cfg := by
  obtain ⟨m, hm⟩ := grAbort_frame c info s
  rw [hm, raise_cfg, State.cfg_setDraws, State.cfg_setPix, endCommand_cfg]

theorem endCommand_idle (s : State) : (endCommand s).Idle := ⟨rfl, rfl, rfl⟩

/-- The run going on fits the pixels still wanted. -/
def GrCursor.Fits (g : GrCursor) : Prop := g.i + g.run ≤ g.lim

/-- How many moves a `GR.DEC` has left at most: two a pixel still wanted, and between runs one more. -/
def GrCursor.movesLeft (g : GrCursor) : Nat := 2 * (g.lim - g.i) + if g.run = 0 then 1 else 0

/-- From a run that fits to one that fits, with fewer moves left. -/
def GrCursor.Progress (g g' : GrCursor) : Prop := g.Fits → g'.Fits ∧ g'.movesLeft < g.movesLeft

/-- A run length ends the command with a fault, or changes `PIX` and the decoder's transient values; between runs it
gets the decoder on (R195). -/
theorem gammaCode_cases (z k : Nat) (s : State) :
    (∃ (e : Cause) (info : Nat), gammaCode z k s = grAbort e info s) ∨
      ∃ (m : Memory) (g : GrCursor), gammaCode z k s = (s.setPix m).setGr g ∧
        (s.gr.run = 0 → s.gr.Progress g) := by
  have hpos : 0 < 2 ^ z + k := Nat.add_pos_left (Nat.two_pow_pos z) k
  unfold gammaCode
  split
  · exact .inl ⟨_, _, rfl⟩
  next hfit =>
    split
    · obtain ⟨m, hm⟩ := putZeros_frame (2 ^ z + k) s.gr.i s
      refine .inr ⟨m, _, by rw [hm], fun hrun _ => ?_⟩
      simp only [GrCursor.Fits, GrCursor.movesLeft, hrun]
      omega
    · refine .inr ⟨s.pix, _, rfl, fun hrun _ => ?_⟩
      simp only [GrCursor.Fits, GrCursor.movesLeft, hrun, if_true, if_neg hpos.ne']
      omega

/-- Adapting to a residual moves no pixel. -/
theorem GrCursor.adapt_place (g : GrCursor) (v : Nat) :
    (g.adapt v).i = g.i ∧ (g.adapt v).lim = g.lim ∧ (g.adapt v).run = g.run := by
  unfold GrCursor.adapt
  split <;> exact ⟨rfl, rfl, rfl⟩

/-- Counting a residual moves to the next pixel. -/
theorem GrCursor.countOne_place (g : GrCursor) :
    g.countOne.i = g.i + 1 ∧ g.countOne.lim = g.lim ∧ g.countOne.run = g.run - 1 := by
  unfold GrCursor.countOne
  split
  · exact ⟨rfl, rfl, by simp only; omega⟩
  · exact ⟨rfl, rfl, rfl⟩

/-- A residual changes `PIX` and the decoder's transient values; inside a run it gets the decoder on (R196). -/
theorem takeResidual_cases (v : Nat) (c : BitCursor) (s : State) :
    ∃ (m : Memory) (g : GrCursor), takeResidual v c s = (s.setPix m).setGr g ∧
      (s.gr.run ≠ 0 → s.gr.Progress g) := by
  obtain ⟨m, hm⟩ := putPix_frame s.gr.i (signMap s.cfg.evenPositive v) s
  obtain ⟨hai, hal, har⟩ := s.gr.adapt_place v
  obtain ⟨hci, hcl, hcr⟩ := (s.gr.adapt v).countOne_place
  refine ⟨m, _, by rw [takeResidual, hm], fun hrun hfits => ?_⟩
  simp only [GrCursor.Fits, GrCursor.movesLeft, hci, hcl, hcr, hai, hal, har, hrun, if_false] at hfits ⊢
  split <;> omega

/-- The code is a run length. -/
def isRunLength : GrCode → Bool
  | .gamma _ _ => true
  | .golomb _ _ | .golombx _ _ => false

/-- A code ends the command with a fault, or changes `PIX` and the decoder's transient values; where the decoder comes
to it, it gets the decoder on (R194 to R197). -/
theorem runCode_cases (c : GrCode) (s : State) :
    (∃ (e : Cause) (info : Nat), runCode c s = grAbort e info s) ∨
      ∃ (m : Memory) (g : GrCursor), runCode c s = (s.setPix m).setGr g ∧
        ((isRunLength c = true ↔ s.gr.run = 0) → s.gr.Progress g) := by
  cases c with
  | gamma z k => simpa [isRunLength, runCode] using gammaCode_cases z k s
  | golomb q r =>
    simp only [runCode, golombCode]
    split
    · exact .inl ⟨_, _, rfl⟩
    · simpa [isRunLength] using .inr (takeResidual_cases _ _ s)
  | golombx q r =>
    simp only [runCode, golombxCode]
    split
    · exact .inl ⟨_, _, rfl⟩
    · simpa [isRunLength] using .inr (takeResidual_cases _ _ s)

theorem isRunLength_of_gammaAt {pool : Nat → Byte} {len : Nat} {c c' : BitCursor} {code : GrCode}
    (h : gammaAt pool len c = .ok (code, c')) : isRunLength code = true := by
  unfold gammaAt at h
  repeat' split at h
  all_goals cases h
  rfl

theorem isRunLength_of_valueAt {pool : Nat → Byte} {len k : Nat} {c c' : BitCursor} {code : GrCode}
    (h : valueAt pool len k c = .ok (code, c')) : isRunLength code = false := by
  unfold valueAt escapeAt at h
  repeat' split at h
  all_goals cases h
  all_goals rfl

/-- A rejected code is a fault. -/
theorem grReject_ne_code (i : Nat) (r : Reject) (c : GrCode) : grReject i r ≠ .code c := by
  cases r <;> simp [grReject]

/-- `GR.DEC` fetches a run length exactly between runs. -/
theorem isRunLength_of_grFetch {s : State} {c : GrCode} (h : grFetch s = .code c) :
    isRunLength c = true ↔ s.gr.run = 0 := by
  unfold grFetch at h
  by_cases hrun : s.gr.run = 0
  · simp only [hrun, if_true] at h
    split at h
    · cases h
    · split at h
      · next hg =>
        cases h
        simp [isRunLength_of_gammaAt hg, hrun]
      · exact absurd h (grReject_ne_code _ _ c)
  · simp only [hrun, if_false] at h
    split at h
    · cases h
    · split at h
      · next hv =>
        cases h
        simp [isRunLength_of_valueAt hv, hrun]
      · exact absurd h (grReject_ne_code _ _ c)

/-- A move of `GR.DEC` ends the command, or gets the decoder on and touches nothing but `PIX` and the decoder's transient
values. -/
theorem grMicro_cases (s : State) :
    grMicro s = endCommand s ∨ (∃ (c : Cause) (info : Nat), grMicro s = grAbort c info s) ∨
      ∃ (m : Memory) (g : GrCursor), grMicro s = (s.setPix m).setGr g ∧ s.gr.Progress g := by
  unfold grMicro
  cases hf : grFetch s with
  | done => exact .inl rfl
  | raise c info => exact .inr (.inl ⟨c, info, rfl⟩)
  | code c =>
    rcases runCode_cases c s with h | ⟨m, g, h, hg⟩
    · exact .inr (.inl h)
    · exact .inr (.inr ⟨m, g, h, hg (isRunLength_of_grFetch hf)⟩)

/-! ## A command's loop of moves -/

/-- The loop that `LZ.DECOMP` and `GR.DEC` share: moves while the command is running. -/
def movesOf (p : Phase) (micro : State → State) : Nat → State → State
  | 0, s => s
  | fuel + 1, s => if s.phase = p then movesOf p micro fuel (micro s) else s

theorem lzRun_eq_movesOf (fuel : Nat) (s : State) : lzRun fuel s = movesOf .lzDecomp lzMicro fuel s := by
  induction fuel generalizing s with
  | zero => rfl
  | succ fuel ih => simp only [lzRun, movesOf, ih]

theorem grRun_eq_movesOf (fuel : Nat) (s : State) : grRun fuel s = movesOf .grDec grMicro fuel s := by
  induction fuel generalizing s with
  | zero => rfl
  | succ fuel ih => simp only [grRun, movesOf, ih]

/-- What every move keeps, the loop keeps. -/
theorem movesOf_keeps {P : State → Prop} {p : Phase} {micro : State → State} (hmicro : ∀ s, P s → P (micro s))
    (fuel : Nat) (s : State) (h : P s) : P (movesOf p micro fuel s) := by
  induction fuel generalizing s with
  | zero => exact h
  | succ fuel ih =>
    rw [movesOf]
    split
    · exact ih _ (hmicro s h)
    · exact h

/-- The loop stands still between commands. -/
theorem movesOf_of_idle {p : Phase} (hp : p ≠ .idle) (micro : State → State) (fuel : Nat) {s : State}
    (h : s.phase = .idle) : movesOf p micro fuel s = s := by
  cases fuel with
  | zero => rfl
  | succ fuel => rw [movesOf, if_neg (by rw [h]; exact hp.symm)]

/-- How a command is run by its loop from the states of `Running`: each move is a step of the machine, and it ends the
command or stays in `Running` with less of the measure `left`. -/
structure Progresses (p : Phase) (micro : State → State) (Running : State → Prop) (left : State → Nat) : Prop where
  /-- the command is running -/
  phase_eq : ∀ s, Running s → s.phase = p
  /-- there is a move left for the end -/
  left_pos : ∀ s, Running s → 0 < left s
  /-- a move is a step -/
  step_eq : ∀ s, Running s → step s = .next (micro s)
  /-- a move ends the command or gets on -/
  ends_or_on : ∀ s, Running s → (micro s).Idle ∨ (Running (micro s) ∧ left (micro s) < left s)

/-- With enough fuel the loop ends the command, and its result is that of as many steps of the machine. -/
theorem movesOf_spec {p : Phase} (hp : p ≠ .idle) {micro : State → State} {Running : State → Prop}
    {left : State → Nat} (hprog : Progresses p micro Running left) (fuel : Nat) (s : State) (hs : Running s)
    (hfuel : left s ≤ fuel) :
    (movesOf p micro fuel s).Idle ∧
      ∃ n ≤ fuel, Host.Core.run Sys2Proof.core n s = .next (movesOf p micro fuel s) := by
  induction fuel generalizing s with
  | zero => exact absurd (hprog.left_pos s hs) (by omega)
  | succ fuel ih =>
    have hstep : Host.Core.step Sys2Proof.core s = .next (micro s) := hprog.step_eq s hs
    have hloop : movesOf p micro (fuel + 1) s = movesOf p micro fuel (micro s) := if_pos (hprog.phase_eq s hs)
    have hrun (n : Nat) : Host.Core.run Sys2Proof.core (n + 1) s = Host.Core.run Sys2Proof.core n (micro s) := by
      simp only [Host.Core.run, hstep]
    rw [hloop]
    rcases hprog.ends_or_on s hs with hidle | ⟨hin, hless⟩
    · rw [movesOf_of_idle hp micro fuel hidle.1]
      exact ⟨hidle, 1, by omega, hrun 0⟩
    · obtain ⟨hidle, n, hn, heq⟩ := ih (micro s) hin (by omega)
      exact ⟨hidle, n + 1, by omega, (hrun n).trans heq⟩

/-! ## `LZ.DECOMP` and `GR.DEC` come to their end -/

/-- `LZ.DECOMP` is running, without a fault. -/
def LzRunning (s : State) : Prop := s.phase = .lzDecomp ∧ s.err = 0#8

/-- Every move of `LZ.DECOMP` takes a byte of the input or ends the command (assumption log 14). -/
theorem lzMicro_progresses :
    Progresses .lzDecomp lzMicro LzRunning (fun s => s.inLen - s.lz.ip + 1) where
  phase_eq _ hs := hs.1
  left_pos _ _ := Nat.succ_pos _
  step_eq _ hs := step_of_lzDecomp hs.1 hs.2
  ends_or_on s hs := by
    rcases lzMicro_cases s with h | ⟨c, info, h⟩ | ⟨d, m, l, h, hip, hl⟩ <;> rw [h]
    · exact .inl (lzFinish_idle s)
    · exact .inl (lzAbort_idle c info s)
    · refine .inr ⟨hs, ?_⟩
      show s.inLen - l.ip + 1 < s.inLen - s.lz.ip + 1
      omega

/-- `GR.DEC` is running, without a fault and with a run that fits. -/
def GrRunning (s : State) : Prop := s.phase = .grDec ∧ s.err = 0#8 ∧ s.gr.Fits

theorem GrCursor.movesLeft_pos {g : GrCursor} (h : g.Fits) : 0 < g.movesLeft := by
  unfold GrCursor.Fits at h
  unfold GrCursor.movesLeft
  split <;> omega

/-- Every move of `GR.DEC` writes a pixel, begins a run or ends the command (assumption log 14). -/
theorem grMicro_progresses : Progresses .grDec grMicro GrRunning (fun s => s.gr.movesLeft) where
  phase_eq _ hs := hs.1
  left_pos _ hs := GrCursor.movesLeft_pos hs.2.2
  step_eq _ hs := step_of_grDec hs.1 hs.2.1
  ends_or_on s hs := by
    obtain ⟨hp, he, hfits⟩ := hs
    rcases grMicro_cases s with h | ⟨c, info, h⟩ | ⟨m, g, h, hg⟩ <;> rw [h]
    · exact .inl (endCommand_idle s)
    · exact .inl (grAbort_idle c info s)
    · exact .inr ⟨⟨hp, he, (hg hfits).1⟩, (hg hfits).2⟩

/-- `LZ.DECOMP` past its check ends, and is so many steps from its first item on. -/
theorem lzDecomp_spec {s : State} (he : s.err = 0#8) : (lzDecomp s).Idle ∧
    ∃ n ≤ s.inLen + 1, Host.Core.run Sys2Proof.core n (lzBegin s) = .next (lzDecomp s) := by
  rw [lzDecomp, lzRun_eq_movesOf]
  exact movesOf_spec (by decide) lzMicro_progresses (s.inLen + 1) (lzBegin s) ⟨rfl, he⟩ le_rfl

/-- The loop of `GR.DEC` ends, and is so many steps from its first code on. -/
theorem grRun_spec (b : Byte) {s : State} (he : s.err = 0#8) : (grRun (2 * s.pixCount + 1) (grBegin b s)).Idle ∧
    ∃ n ≤ 2 * s.pixCount + 1,
      Host.Core.run Sys2Proof.core n (grBegin b s) = .next (grRun (2 * s.pixCount + 1) (grBegin b s)) := by
  rw [grRun_eq_movesOf]
  have hleft : (grBegin b s).gr.movesLeft = 2 * s.pixCount + 1 := by simp [grBegin, GrCursor.movesLeft]
  exact movesOf_spec (by decide) grMicro_progresses _ _
    ⟨rfl, he, by simp [grBegin, GrCursor.Fits]⟩ hleft.le

/-- With pixels wanted and a pool, `GR.DEC` is its loop after the polarity byte (R192). -/
theorem grDec_of_pool {s : State} (hcount : 0 < s.pixCount) (hpool : 0 < s.poolLen) :
    grDec s = grRun (2 * s.pixCount + 1) (grBegin (s.readByte .pool 0) s) := by
  have hfetch : fetchByte s.poolByte s.poolLen 0 = .ok (s.readByte .pool 0) := if_neg (by omega)
  rw [grDec, if_neg (by omega), hfetch]

theorem grDec_idle {s : State} (hs : s.Idle) (he : s.err = 0#8) : (grDec s).Idle := by
  unfold grDec
  split
  · exact hs
  · split
    · exact grAbort_idle _ _ s
    · exact (grRun_spec _ he).1

/-! ## Every step keeps the configuration -/

theorem lzMicro_cfg (s : State) : (lzMicro s).cfg = s.cfg := by
  rcases lzMicro_cases s with h | ⟨c, info, h⟩ | ⟨d, m, l, h, -⟩ <;> rw [h]
  · rfl
  · exact lzAbort_cfg c info s
  · rfl

theorem grMicro_cfg (s : State) : (grMicro s).cfg = s.cfg := by
  rcases grMicro_cases s with h | ⟨c, info, h⟩ | ⟨m, g, h, -⟩ <;> rw [h]
  · rfl
  · exact grAbort_cfg c info s
  · rfl

theorem runToken_cfg (t : LzToken) (s : State) : (runToken t s).cfg = s.cfg := by
  rcases runToken_cases t s with ⟨c, info, h⟩ | ⟨d, m, l, h, -⟩ <;> rw [h]
  · exact lzAbort_cfg c info s
  · rfl

theorem runCode_cfg (c : GrCode) (s : State) : (runCode c s).cfg = s.cfg := by
  rcases runCode_cases c s with ⟨e, info, h⟩ | ⟨m, g, h, -⟩ <;> rw [h]
  · exact grAbort_cfg e info s
  · rfl

theorem lzDecomp_cfg (s : State) : (lzDecomp s).cfg = s.cfg := by
  rw [lzDecomp, lzRun_eq_movesOf]
  exact movesOf_keeps (P := fun t => t.cfg = s.cfg) (fun t h => (lzMicro_cfg t).trans h) _ _ rfl

theorem grDec_cfg (s : State) : (grDec s).cfg = s.cfg := by
  unfold grDec
  split
  · rfl
  · split
    · exact grAbort_cfg _ _ s
    · rw [grRun_eq_movesOf]
      exact movesOf_keeps (P := fun t => t.cfg = s.cfg) (fun t h => (grMicro_cfg t).trans h) _ _ rfl

theorem whenReady_cfg {f : State → State} {s : State} (h : (f s).cfg = s.cfg) : (whenReady f s).cfg = s.cfg :=
  whenReady_cases (fun t => t.cfg = s.cfg) f s rfl fun _ => h

theorem checked_cfg {checks : State → List (Bool × Nat)} {f : State → State} {s : State} (h : (f s).cfg = s.cfg) :
    (checked checks f s).cfg = s.cfg :=
  checked_cases (fun t => t.cfg = s.cfg) checks f s (fun _ _ => rfl) fun _ => h

/-- No instruction writes the configuration (R6). -/
theorem exec_keeps_cfg {i : Instr} {s t : State} (h : exec i s = .next t) : t.cfg = s.cfg := by
  cases exec_kind i s with
  | sysReset =>
    cases h
    rfl
  | lzDecomp =>
    cases h
    exact whenReady_cfg (checked_cfg (lzDecomp_cfg s))
  | grDec =>
    cases h
    exact whenReady_cfg (checked_cfg (grDec_cfg s))
  | token k =>
    rw [exec_tokenInstr] at h
    cases h
    exact whenReady_cfg (runToken_cfg k s)
  | code c =>
    rw [exec_codeInstr] at h
    cases h
    exact whenReady_cfg (runCode_cfg c s)
  | plain i f hexec hf =>
    rw [hexec] at h
    cases h
    exact whenReady_cfg hf.cfg

/-! ## Host accesses and words that are no command -/

theorem State.atIndex_next {s t u : State} {sp : Space} {i n : Nat} (h : s.atIndex sp i n t = .next u) : u = t := by
  unfold State.atIndex at h
  split at h <;> cases h
  rfl

/-- A host access leaves the configuration and the running command as they are. -/
theorem hostAccess_sameControl {a : HostAccess} {s t : State} (h : hostAccess a s = .next t) : s.SameControl t := by
  cases a with
  | writeByte sp i b =>
    rw [State.atIndex_next h]
    exact ⟨s.cfg_writeByte sp i b, s.phase_writeByte sp i b, s.lz_writeByte sp i b, s.gr_writeByte sp i b⟩
  | readByte sp i =>
    rw [State.atIndex_next h]
    exact ⟨rfl, rfl, rfl, rfl⟩
  | writePix i v =>
    obtain ⟨m, hm⟩ := s.writePixWord_frame i v
    rw [State.atIndex_next h, hm]
    exact ⟨rfl, rfl, rfl, rfl⟩
  | readPix i =>
    rw [State.atIndex_next h]
    exact ⟨rfl, rfl, rfl, rfl⟩
  | _ =>
    cases h
    exact ⟨rfl, rfl, rfl, rfl⟩

theorem illegalCommand_sameControl (w : Word) (s : State) : s.SameControl (illegalCommand w s) :=
  whenReady_sameControl (raise_sameControl .illegalCmd w.toNat s)

theorem whenReady_idle {f : State → State} {s : State} (hs : s.Idle) (h : s.err = 0#8 → (f s).Idle) :
    (whenReady f s).Idle := whenReady_cases State.Idle f s hs h

theorem checked_idle {checks : State → List (Bool × Nat)} {f : State → State} {s : State} (hs : s.Idle)
    (h : (f s).Idle) : (checked checks f s).Idle :=
  checked_cases State.Idle checks f s (fun k _ => (raise_sameControl .badOperand k s).idle hs) fun _ => h

/-- Every command ends, and leaves no transient value behind. -/
theorem exec_keeps_idle {i : Instr} {s t : State} (hi : isCommand i = true) (hs : s.Idle)
    (h : exec i s = .next t) : t.Idle := by
  cases exec_kind i s with
  | sysReset =>
    cases h
    exact ⟨rfl, rfl, rfl⟩
  | lzDecomp =>
    cases h
    exact whenReady_idle hs fun he => checked_idle hs (lzDecomp_spec he).1
  | grDec =>
    cases h
    exact whenReady_idle hs fun he => checked_idle hs (grDec_idle hs he)
  | token k => cases k <;> cases hi
  | code c => cases c <;> cases hi
  | plain i f hexec hf =>
    rw [hexec] at h
    cases h
    exact whenReady_idle hs fun _ => hf.idle hs

/-! ## Where the machine stops -/

theorem atIndex_goesOn (s t : State) (sp : Space) (i n : Nat) :
    GoesOn (s.atIndex sp i n t) ↔ n * i + n ≤ s.capacity sp := by
  unfold State.atIndex GoesOn
  split <;> simp [*]

/-- A host access goes on exactly when its index is inside its buffer. -/
theorem hostAccess_goesOn (a : HostAccess) (s : State) :
    GoesOn (hostAccess a s) ↔ (Event.access a).inRange s = true := by
  cases a with
  | writeByte sp i b =>
    simp only [hostAccess, atIndex_goesOn, Event.inRange, decide_eq_true_eq]
    omega
  | readByte sp i =>
    simp only [hostAccess, atIndex_goesOn, Event.inRange, decide_eq_true_eq]
    omega
  | writePix i v =>
    simp only [hostAccess, atIndex_goesOn, Event.inRange, State.capacity, decide_eq_true_eq]
    omega
  | readPix i =>
    simp only [hostAccess, atIndex_goesOn, Event.inRange, State.capacity, decide_eq_true_eq]
    omega
  | _ => exact ⟨fun _ => rfl, fun _ => ⟨_, rfl⟩⟩

/-- Every instruction goes on. -/
theorem exec_goesOn (i : Instr) (s : State) : GoesOn (exec i s) := by
  cases i <;> exact ⟨_, rfl⟩

theorem Event.inRange_setEvents (e : Event) (s : State) (es : List Event) :
    e.inRange (s.setEvents es) = e.inRange s := by
  cases e with
  | access a => cases a <;> rfl
  | powerOn => rfl
  | writeCmd w => rfl

/-- The next thing the host does between commands is an access outside its buffer. -/
def State.AccessesOutside (s : State) : Prop :=
  s.phase = .idle ∧ ∃ (e : Event) (rest : List Event), s.events = e :: rest ∧ e.inRange s = false

theorem accessesOutside_iff {s : State} {e : Event} {rest : List Event} (hp : s.phase = .idle)
    (he : s.events = e :: rest) : s.AccessesOutside ↔ e.inRange s = false := by
  constructor
  · rintro ⟨-, e', rest', he', hr⟩
    rw [he] at he'
    cases he'
    exact hr
  · exact fun h => ⟨hp, e, rest, he, h⟩

/-- A step goes on unless it is a host access outside its buffer (assumption log 16). -/
theorem step_goesOn_iff (s : State) : GoesOn (step s) ↔ ¬s.AccessesOutside := by
  have hrule := step_rule s
  generalize step s = o at hrule
  cases hrule with
  | waits hp he => exact ⟨fun _ ⟨_, e, rest, he', _⟩ => by simp [he] at he', fun _ => ⟨_, rfl⟩⟩
  | powersOn hp rest he => simp [accessesOutside_iff hp he, GoesOn, Event.inRange]
  | accesses hp a rest he =>
    rw [accessesOutside_iff hp he, hostAccess_goesOn, Event.inRange_setEvents, Bool.not_eq_false]
  | commands hp w rest i he hd => simp [accessesOutside_iff hp he, exec_goesOn, Event.inRange]
  | illegal hp w rest r he hd => simp [accessesOutside_iff hp he, GoesOn, Event.inRange]
  | lzMove hp => exact ⟨fun _ h => by simp [h.1] at hp, fun _ => ⟨_, rfl⟩⟩
  | grMove hp => exact ⟨fun _ h => by simp [h.1] at hp, fun _ => ⟨_, rfl⟩⟩
  | refused hp he => exact ⟨fun _ h => hp h.1, fun _ => ⟨_, rfl⟩⟩

/-! ## The reset state -/

/-- The LZC reset state is R39's, entry by entry. -/
theorem Lzc.fresh_holdsReset : Lzc.fresh.HoldsReset where
  text _ _ := rfl
  mapZero := rfl
  mapRest h hne := by
    have hne' : h.toNat ≠ 0 := fun h0 => hne (BitVec.eq_of_toNat_eq h0)
    simp [resetMap, hne']
  nextBelow p hp := by
    rw [Lzc.getNext_fresh, resetNext, if_pos hp]
    exact congrArg some (by bv_omega)
  nextLast := rfl
  prevFirst := rfl
  prevRest p hne := by
    have hne' : p.toNat ≠ 0 := fun h0 => hne (BitVec.eq_of_toNat_eq h0)
    rw [Lzc.getPrev_fresh, resetPrev, if_neg hne']
    exact congrArg some (by bv_omega)
  cursor := rfl

theorem Lzd.fresh_holdsReset : Lzd.fresh.HoldsReset := ⟨fun _ => rfl, rfl⟩

/-- The state after power-on holds R39's values, whatever the configuration. -/
theorem powerUp_holdsResetValues (cfg : Config) (draw : Nat) : (State.powerUp cfg draw).HoldsResetValues where
  registers := Regs.read_zero
  err := rfl
  errInfo := rfl
  compressor := Lzc.fresh_holdsReset
  snapValid := rfl
  decompressor := Lzd.fresh_holdsReset

/-- The open capacities are in R6's ranges. -/
theorem built_valid : Config.built.Valid := by
  have hibuf : Config.openIbuf % (2 ^ 32 - 1) < 2 ^ 32 - 1 := Nat.mod_lt _ (by decide)
  have hobuf : Config.openObuf % (2 ^ 32 - 1) < 2 ^ 32 - 1 := Nat.mod_lt _ (by decide)
  have hpool : Config.openPool % (2 ^ 32 - 5) < 2 ^ 32 - 5 := Nat.mod_lt _ (by decide)
  have hpix : Config.openPix % 2 ^ 24 < 2 ^ 24 := Nat.mod_lt _ (by decide)
  simp only [Config.Valid, Config.built]
  omega

/-! ## The obligations -/

/-- Settles O17: each move of a step from an idle state ends in one; `LZ.DECOMP` and `GR.DEC` by their measures. -/
theorem stepKeepsIdle : Obligations.StepKeepsIdle := by
  intro s t hs h
  have hrule := step_rule s
  generalize step s = o at h hrule
  cases hrule with
  | waits hp he =>
    cases h
    exact hs
  | powersOn hp rest he =>
    cases h
    exact ⟨rfl, rfl, rfl⟩
  | accesses hp a rest he => exact ((s.setEvents_sameControl rest).trans (hostAccess_sameControl h)).idle hs
  | commands hp w rest i he hd =>
    exact exec_keeps_idle (isCommand_of_decodeCommand hd) ((s.setEvents_sameControl rest).idle hs) h
  | illegal hp w rest r he hd =>
    cases h
    exact ((s.setEvents_sameControl rest).trans (illegalCommand_sameControl w _)).idle hs
  | lzMove hp => simp [hs.1] at hp
  | grMove hp => simp [hs.1] at hp
  | refused hp he => exact absurd hs.1 hp

/-- Settles O15: the fourteen commands, the items and the codes always go on; a step stops only by a host access. -/
theorem stepStopsOnlyOutsideBuffers : Obligations.StepStopsOnlyOutsideBuffers :=
  ⟨exec_goesOn, step_goesOn_iff⟩

/-- Settles O16: no move of a step writes the configuration. -/
theorem stepKeepsConfiguration : Obligations.StepKeepsConfiguration := by
  intro s t h
  have hrule := step_rule s
  generalize step s = o at h hrule
  cases hrule with
  | accesses hp a rest he => exact (hostAccess_sameControl h).cfg
  | commands hp w rest i he hd => exact exec_keeps_cfg (s := s.setEvents rest) h
  | illegal hp w rest r he hd =>
    cases h
    exact (illegalCommand_sameControl w (s.setEvents rest)).cfg
  | lzMove hp =>
    cases h
    exact lzMicro_cfg s
  | grMove hp =>
    cases h
    exact grMicro_cfg s
  | _ =>
    cases h
    rfl

/-- Settles O43: past their checks both commands are their loops, and each loop is as many steps as it makes moves. -/
theorem commandsAreTheirItems : Obligations.CommandsAreTheirItems := by
  refine ⟨fun s he hlen => ?_, fun s he hchecks hcount hpool => ?_⟩
  · obtain ⟨hidle, n, hn, hrun⟩ := lzDecomp_spec he
    have hexec : exec .lzDecomp s = .next (whenReady (checked decompChecks lzDecomp) s) := rfl
    rw [whenReady_ready _ s he, checked_pass _ _ s ((decompChecks_pass s).mpr hlen)] at hexec
    exact ⟨n, lzDecomp s, hn, hexec, hrun, hidle.1⟩
  · obtain ⟨hidle, n, hn, hrun⟩ := grRun_spec (s.readByte .pool 0) he
    have hexec : exec .grDec s = .next (whenReady (checked grChecks grDec) s) := rfl
    rw [whenReady_ready _ s he, checked_pass _ _ s hchecks, grDec_of_pool hcount hpool] at hexec
    exact ⟨n, _, hn, hexec, hrun, hidle.1⟩

/-- Settles O7: a word that decodes goes to its instruction's meaning, with the write taken off the pending events. -/
theorem stepRunsCommand : Obligations.StepRunsCommand := fun _ _ _ _ => step_of_command

/-- Settles O19: the reset state is the state after power-on with a configuration of R6. -/
theorem resetLeaves : Obligations.ResetLeaves :=
  ⟨powerUp_holdsResetValues _ _, ⟨rfl, rfl, rfl⟩, built_valid, rfl⟩

end Sys2Proof.Machine
end

section
/-! PROOFS. The state (spec/10_state.md): the dictionary invariant of R31 through `PUTBYTE` and through every step, the
canonical form, the fault registers, the snapshot bank, the frames of `LZ.DECOMP` and `GR.DEC`, and the reset state.
Settles O12, O18, O20, O21, O24, O26, O32, O33, O44, O49, O58, O60. -/

namespace Sys2Proof.Machine

/-! ## The links after `DELETE` and `INSERT` (spec/40_lz_dictionary.md R131, R132) -/

theorem Lzc.getMap_unlinkOlder (l : Lzc) (p : Pos) (h : BitVec 16) : (l.unlinkOlder p).getMap h = l.getMap h := by
  unfold Lzc.unlinkOlder
  split <;> rfl

theorem Lzc.getNext_unlinkOlder (l : Lzc) (p q : Pos) : (l.unlinkOlder p).getNext q = l.getNext q := by
  unfold Lzc.unlinkOlder
  split <;> rfl

theorem Lzc.getPrev_unlinkOlder (l : Lzc) (p q : Pos) :
    (l.unlinkOlder p).getPrev q = if l.getNext p = some q then l.getPrev p else l.getPrev q := by
  unfold Lzc.unlinkOlder
  split
  · next h => simp [h]
  · next n h => simp only [Lzc.getPrev_setPrev, h, Option.some.injEq, eq_comm]

/-- The newest positions after `DELETE`: where `p` was the newest, its older neighbour is. -/
theorem Lzc.getMap_delete (l : Lzc) (p : Pos) (h : BitVec 16) :
    (l.delete p).getMap h = if h = l.key p ∧ l.getPrev p = none then l.getNext p else l.getMap h := by
  unfold Lzc.delete
  split
  · next pv hp => simp [hp, Lzc.getMap_unlinkOlder]
  · next hp => simp [hp, Lzc.getMap_setMap, Lzc.getMap_unlinkOlder]

/-- The older neighbours after `DELETE`: none of `p`, and `p`'s newer neighbour has `p`'s older one. -/
theorem Lzc.getNext_delete (l : Lzc) (p q : Pos) : (l.delete p).getNext q =
    if q = p then none else if l.getPrev p = some q then l.getNext p else l.getNext q := by
  unfold Lzc.delete
  split
  · next pv hp =>
    simp only [Lzc.getNext_setNext, Lzc.getNext_setPrev, Lzc.getNext_unlinkOlder, hp, Option.some.injEq, eq_comm]
  · next hp => simp [Lzc.getNext_setNext, Lzc.getNext_unlinkOlder, hp]

/-- The newer neighbours after `DELETE`: none of `p`, and `p`'s older neighbour has `p`'s newer one. -/
theorem Lzc.getPrev_delete (l : Lzc) (p q : Pos) : (l.delete p).getPrev q =
    if q = p then none else if l.getNext p = some q then l.getPrev p else l.getPrev q := by
  unfold Lzc.delete
  split <;> simp only [Lzc.getPrev_setNext, Lzc.getPrev_setPrev, Lzc.getPrev_setMap, Lzc.getPrev_unlinkOlder]

/-- The newest positions after `INSERT`. -/
theorem Lzc.getMap_insert (l : Lzc) (p : Pos) (h : BitVec 16) :
    (l.insert p).getMap h = if h = l.key p then some p else l.getMap h := by
  unfold Lzc.insert
  split <;> simp only [Lzc.getMap_setPrev, Lzc.getMap_setNext, Lzc.getMap_setMap]

/-- The older neighbours after `INSERT` of a position without one. -/
theorem Lzc.getNext_insert {l : Lzc} {p : Pos} (hp : l.getNext p = none) (q : Pos) :
    (l.insert p).getNext q = if q = p then l.getMap (l.key p) else l.getNext q := by
  unfold Lzc.insert
  split
  · next hm =>
    by_cases hq : q = p <;> simp [hq, hm, hp]
  · next old hm => simp only [hm, Lzc.getNext_setPrev, Lzc.getNext_setNext, Lzc.getNext_setMap]

/-- The newer neighbours after `INSERT` of a position without one. -/
theorem Lzc.getPrev_insert {l : Lzc} {p : Pos} (hp : l.getPrev p = none) (q : Pos) : (l.insert p).getPrev q =
    if q = p then none else if l.getMap (l.key p) = some q then some p else l.getPrev q := by
  unfold Lzc.insert
  split
  · next hm =>
    by_cases hq : q = p <;> simp [hq, hm, hp]
  · next old hm =>
    simp only [hm, Lzc.getPrev_setPrev, Lzc.getPrev_setNext, Lzc.getPrev_setMap, Option.some.injEq, eq_comm]

@[simp] theorem Lzc.key_delete (l : Lzc) (p q : Pos) : (l.delete p).key q = l.key q := by
  simp only [Lzc.key, Lzc.getText_delete]

@[simp] theorem Lzc.key_insert (l : Lzc) (p q : Pos) : (l.insert p).key q = l.key q := by
  simp only [Lzc.key, Lzc.getText_insert]

/-! ## Chains -/

/-- A chain depends only on the older neighbours of its positions. -/
theorem Lzc.IsChain.congr {l l' : Lzc} {start : Option Pos} {ch : List Pos} (h : l.IsChain start ch)
    (heq : ∀ q ∈ ch, l'.getNext q = l.getNext q) : l'.IsChain start ch := by
  induction ch generalizing start with
  | nil => exact h
  | cons p rest ih =>
    obtain ⟨hstart, hrest⟩ := h
    refine ⟨hstart, ?_⟩
    rw [heq p List.mem_cons_self]
    exact ih hrest fun q hq => heq q (List.mem_cons_of_mem p hq)

/-- The position a chain starts at is on it. -/
theorem Lzc.IsChain.start_mem {l : Lzc} {p : Pos} {ch : List Pos} (h : l.IsChain (some p) ch) : p ∈ ch := by
  cases ch with
  | nil => cases h
  | cons q rest =>
    obtain ⟨hstart, -⟩ := h
    cases hstart
    exact List.mem_cons_self

/-- The older neighbour of a position on a chain is on it. -/
theorem Lzc.IsChain.next_mem {l : Lzc} {start : Option Pos} {ch : List Pos} (h : l.IsChain start ch) {p q : Pos}
    (hp : p ∈ ch) (hq : l.getNext p = some q) : q ∈ ch := by
  induction ch generalizing start with
  | nil => cases hp
  | cons r rest ih =>
    obtain ⟨-, hrest⟩ := h
    rcases List.mem_cons.mp hp with rfl | hp
    · rw [hq] at hrest
      exact List.mem_cons_of_mem _ hrest.start_mem
    · exact List.mem_cons_of_mem _ (ih hrest hp)

/-- No position of a chain without repetitions is its own neighbour. -/
theorem Lzc.IsChain.next_ne_self {l : Lzc} {start : Option Pos} {ch : List Pos} (h : l.IsChain start ch)
    (hnd : ch.Nodup) {p : Pos} (hp : p ∈ ch) : l.getNext p ≠ some p := by
  induction ch generalizing start with
  | nil => cases hp
  | cons r rest ih =>
    obtain ⟨-, hrest⟩ := h
    obtain ⟨hr, hnd⟩ := List.nodup_cons.mp hnd
    rcases List.mem_cons.mp hp with rfl | hp
    · intro hself
      rw [hself] at hrest
      exact hr hrest.start_mem
    · exact ih hrest hnd hp

/-- A link passes over `p`, to its older neighbour. -/
def Lzc.bypass (l : Lzc) (p : Pos) (link : Option Pos) : Option Pos := if link = some p then l.getNext p else link

/-- Where every link passes over `p`, the chain is the old one without `p`. -/
theorem Lzc.IsChain.erase_of_bypass {l l' : Lzc} {p : Pos}
    (hnext : ∀ q, q ≠ p → l'.getNext q = l.bypass p (l.getNext q)) {start : Option Pos} {ch : List Pos}
    (h : l.IsChain start ch) (hnd : ch.Nodup) : l'.IsChain (l.bypass p start) (ch.erase p) := by
  induction ch generalizing start with
  | nil =>
    cases h
    rfl
  | cons r rest ih =>
    obtain ⟨rfl, hrest⟩ := h
    obtain ⟨hr, hnd⟩ := List.nodup_cons.mp hnd
    have hold := ih hrest hnd
    by_cases hrp : r = p
    · subst hrp
      have hself : l.getNext r ≠ some r := fun h => hr (h ▸ hrest).start_mem
      rw [List.erase_of_not_mem hr, Lzc.bypass, if_neg hself] at hold
      rwa [List.erase_cons_head, Lzc.bypass, if_pos rfl]
    · rw [List.erase_cons_tail (by simpa using hrp), Lzc.bypass, if_neg (by simpa using hrp)]
      exact ⟨rfl, (hnext r hrp).symm ▸ hold⟩

/-! ## The invariant of R31 for the positions that are in chains -/

/-- The invariant of R31 while only the positions of `D` are in chains, as it is between the deletes and the inserts of
`PUTBYTE`; the other positions have no links. -/
structure Lzc.LinkedOn (l : Lzc) (D : Set Pos) : Prop where
  /-- I1, I2, I4: the chain of a key has exactly the linked positions with that key -/
  chains : ∀ h : BitVec 16, ∃ ch : List Pos,
    l.IsChain (l.getMap h) ch ∧ ch.Nodup ∧ ∀ p : Pos, p ∈ ch ↔ p ∈ D ∧ l.key p = h
  /-- I3: links are mutual -/
  mutualLinks : ∀ p q : Pos, l.getNext p = some q ↔ l.getPrev q = some p
  /-- I3: the head of a chain is the position without a newer one -/
  heads : ∀ p ∈ D, l.getPrev p = none ↔ l.getMap (l.key p) = some p
  /-- a position in no chain has no links -/
  unlinked : ∀ p ∉ D, l.getPrev p = none ∧ l.getNext p = none

/-- R31 is the invariant with every position in a chain, and the mirror equation. -/
theorem Lzc.ok_iff (l : Lzc) :
    l.Ok ↔ l.LinkedOn Set.univ ∧ ∀ i : Nat, i < 272 → l.getText (4096 + i) = l.getText i := by
  constructor
  · rintro ⟨hchains, hmutual, hheads, hmirror⟩
    have hlinks : l.LinkedOn Set.univ :=
      ⟨by simpa using hchains, hmutual, fun p _ => hheads p, fun p hp => absurd (Set.mem_univ p) hp⟩
    exact ⟨hlinks, hmirror⟩
  · rintro ⟨⟨hchains, hmutual, hheads, -⟩, hmirror⟩
    exact ⟨by simpa using hchains, hmutual, fun p => hheads p (Set.mem_univ p), hmirror⟩

section
variable {l : Lzc} {D : Set Pos}

/-- The newest position of a key is linked and has that key. -/
theorem Lzc.LinkedOn.of_map (hl : l.LinkedOn D) {h : BitVec 16} {p : Pos} (hp : l.getMap h = some p) :
    p ∈ D ∧ l.key p = h := by
  obtain ⟨ch, hch, -, hmem⟩ := hl.chains h
  exact (hmem p).mp (hp ▸ hch).start_mem

/-- The older neighbour of a position is linked and has the same key. -/
theorem Lzc.LinkedOn.of_next (hl : l.LinkedOn D) {p q : Pos} (hq : l.getNext p = some q) :
    p ∈ D ∧ q ∈ D ∧ l.key q = l.key p := by
  have hp : p ∈ D := by
    by_contra hp
    rw [(hl.unlinked p hp).2] at hq
    cases hq
  obtain ⟨ch, hch, -, hmem⟩ := hl.chains (l.key p)
  exact ⟨hp, (hmem q).mp (hch.next_mem ((hmem p).mpr ⟨hp, rfl⟩) hq)⟩

theorem Lzc.LinkedOn.next_ne_self (hl : l.LinkedOn D) (p : Pos) : l.getNext p ≠ some p := by
  intro hself
  obtain ⟨ch, hch, hnd, hmem⟩ := hl.chains (l.key p)
  exact hch.next_ne_self hnd ((hmem p).mpr ⟨(hl.of_next hself).1, rfl⟩) hself

/-- `DELETE` takes a linked position out of its chain (R132). -/
theorem Lzc.LinkedOn.delete (hl : l.LinkedOn D) {p : Pos} (hp : p ∈ D) : (l.delete p).LinkedOn (D \ {p}) := by
  have hself := hl.next_ne_self p
  have hnext (q : Pos) (hq : q ≠ p) : (l.delete p).getNext q = l.bypass p (l.getNext q) := by
    simp only [Lzc.getNext_delete, if_neg hq, Lzc.bypass, hl.mutualLinks]
  have hprev (q : Pos) (hq : q ≠ p) :
      (l.delete p).getPrev q = if l.getPrev q = some p then l.getPrev p else l.getPrev q := by
    simp only [Lzc.getPrev_delete, if_neg hq, hl.mutualLinks]
  have hmap (h : BitVec 16) : (l.delete p).getMap h = l.bypass p (l.getMap h) := by
    have hiff : (h = l.key p ∧ l.getPrev p = none) ↔ l.getMap h = some p := by
      constructor
      · rintro ⟨rfl, hnone⟩
        exact (hl.heads p hp).mp hnone
      · intro hm
        obtain ⟨-, rfl⟩ := hl.of_map hm
        exact ⟨rfl, (hl.heads p hp).mpr hm⟩
    simp only [Lzc.getMap_delete, hiff, Lzc.bypass]
  have hnextp : (l.delete p).getNext p = none := by rw [Lzc.getNext_delete, if_pos rfl]
  have hprevp : (l.delete p).getPrev p = none := by rw [Lzc.getPrev_delete, if_pos rfl]
  constructor
  case chains =>
    intro h
    obtain ⟨ch, hch, hnd, hmem⟩ := hl.chains h
    refine ⟨ch.erase p, ?_, hnd.erase p, fun q => ?_⟩
    · rw [hmap]
      exact hch.erase_of_bypass hnext hnd
    · rw [hnd.mem_erase_iff, hmem, Lzc.key_delete]
      simp only [Set.mem_sdiff, Set.mem_singleton_iff]
      tauto
  case mutualLinks =>
    intro a b
    have hab := hl.mutualLinks a b
    have hpb := hl.mutualLinks p b
    have hap := hl.mutualLinks a p
    have hpp := hl.mutualLinks p p
    by_cases ha : a = p <;> by_cases hb : b = p
    · simp [ha, hb, hnextp, hprevp]
    · subst ha
      rw [hnextp, hprev b hb]
      grind
    · subst hb
      rw [hprevp, hnext a ha, Lzc.bypass]
      grind
    · rw [hnext a ha, hprev b hb, Lzc.bypass]
      grind
  case heads =>
    rintro q ⟨hq, hqp⟩
    rw [Lzc.key_delete, hmap, hprev q hqp, Lzc.bypass]
    have hq := hl.heads q hq
    have hpq := hl.mutualLinks p q
    by_cases hlink : l.getPrev q = some p
    · obtain ⟨-, -, hkey⟩ := hl.of_next (hpq.mpr hlink)
      have hp := hl.heads p hp
      grind
    · grind
  case unlinked =>
    intro q hq
    by_cases hqp : q = p
    · subst hqp
      exact ⟨hprevp, hnextp⟩
    · obtain ⟨hqprev, hqnext⟩ := hl.unlinked q fun hD => hq ⟨hD, hqp⟩
      exact ⟨by simp [hprev q hqp, hqprev], by simp [hnext q hqp, hqnext, Lzc.bypass]⟩

/-- `INSERT` puts an unlinked position at the head of its chain (R131). -/
theorem Lzc.LinkedOn.insert (hl : l.LinkedOn D) {p : Pos} (hp : p ∉ D) :
    (l.insert p).LinkedOn (Insert.insert p D) := by
  obtain ⟨hpprev, hpnext⟩ := hl.unlinked p hp
  have hne (h : BitVec 16) : l.getMap h ≠ some p := fun hm => hp (hl.of_map hm).1
  constructor
  case chains =>
    intro h
    obtain ⟨ch, hch, hnd, hmem⟩ := hl.chains h
    have hpch : p ∉ ch := fun hc => hp ((hmem p).mp hc).1
    have hch' : (l.insert p).IsChain (l.getMap h) ch := hch.congr fun q hq => by
      rw [Lzc.getNext_insert hpnext, if_neg (ne_of_mem_of_not_mem hq hpch)]
    simp only [Lzc.key_insert, Lzc.getMap_insert, Set.mem_insert_iff]
    by_cases hkey : h = l.key p
    · subst hkey
      refine ⟨p :: ch, ?_, List.nodup_cons.mpr ⟨hpch, hnd⟩, fun q => ?_⟩
      · rw [if_pos rfl]
        exact ⟨rfl, by rwa [Lzc.getNext_insert hpnext, if_pos rfl]⟩
      · rw [List.mem_cons, hmem]
        constructor
        · rintro (rfl | ⟨hq, hk⟩)
          exacts [⟨.inl rfl, rfl⟩, ⟨.inr hq, hk⟩]
        · rintro ⟨rfl | hq, hk⟩
          exacts [.inl rfl, .inr ⟨hq, hk⟩]
    · refine ⟨ch, ?_, hnd, fun q => ?_⟩
      · rwa [if_neg hkey]
      · rw [hmem]
        constructor
        · exact fun ⟨hq, hk⟩ => ⟨.inr hq, hk⟩
        · rintro ⟨rfl | hq, hk⟩
          exacts [absurd hk.symm hkey, ⟨hq, hk⟩]
  case mutualLinks =>
    intro a b
    rw [Lzc.getNext_insert hpnext, Lzc.getPrev_insert hpprev]
    have hab := hl.mutualLinks a b
    have hpb := hl.mutualLinks p b
    have hap := hl.mutualLinks a p
    have hhead : l.getMap (l.key p) = some b → l.getPrev b = none := fun hm => by
      obtain ⟨hb, hkey⟩ := hl.of_map hm
      exact (hl.heads b hb).mpr (hkey ▸ hm)
    have := hne (l.key p)
    grind
  case heads =>
    intro q hq
    rw [Lzc.key_insert, Lzc.getPrev_insert hpprev, Lzc.getMap_insert]
    have hkey : l.getMap (l.key p) = some q → l.key q = l.key p := fun hm => (hl.of_map hm).2
    rcases hq with rfl | hq
    · simp
    · have hheads := hl.heads q hq
      have hqp : q ≠ p := ne_of_mem_of_not_mem hq hp
      grind
  case unlinked =>
    intro q hq
    obtain ⟨hqp, hqD⟩ := not_or.mp hq
    obtain ⟨hqprev, hqnext⟩ := hl.unlinked q hqD
    rw [Lzc.getNext_insert hpnext, Lzc.getPrev_insert hpprev, if_neg hqp, if_neg hqp]
    exact ⟨by rw [if_neg fun hm => hqD (hl.of_map hm).1, hqprev], hqnext⟩

/-- The links stay right when the text changes, as long as no linked position's key does. -/
theorem Lzc.LinkedOn.of_same_links {l' : Lzc} (hl : l.LinkedOn D) (hmap : ∀ h, l'.getMap h = l.getMap h)
    (hprev : ∀ p, l'.getPrev p = l.getPrev p) (hnext : ∀ p, l'.getNext p = l.getNext p)
    (hkey : ∀ p ∈ D, l'.key p = l.key p) : l'.LinkedOn D where
  chains h := by
    obtain ⟨ch, hch, hnd, hmem⟩ := hl.chains h
    refine ⟨ch, (hmap h).symm ▸ hch.congr fun q _ => hnext q, hnd, fun p => ?_⟩
    rw [hmem]
    exact and_congr_right fun hp => by rw [hkey p hp]
  mutualLinks p q := by rw [hnext, hprev, hl.mutualLinks]
  heads p hp := by rw [hprev, hmap, hkey p hp, hl.heads p hp]
  unlinked p hp := by rw [hprev, hnext]; exact hl.unlinked p hp

end

/-! ## `PUTBYTE` -/

theorem Lzc.getMap_storeAtCursor (l : Lzc) (c : Byte) (h : BitVec 16) : (l.storeAtCursor c).getMap h = l.getMap h := by
  unfold Lzc.storeAtCursor
  split <;> rfl

theorem Lzc.getPrev_storeAtCursor (l : Lzc) (c : Byte) (p : Pos) : (l.storeAtCursor c).getPrev p = l.getPrev p := by
  unfold Lzc.storeAtCursor
  split <;> rfl

theorem Lzc.getNext_storeAtCursor (l : Lzc) (c : Byte) (p : Pos) : (l.storeAtCursor c).getNext p = l.getNext p := by
  unfold Lzc.storeAtCursor
  split <;> rfl

/-- The window after the text writes of `PUTBYTE`: only the position of the cursor changes. -/
theorem Lzc.getText_storeAtCursor (l : Lzc) (c : Byte) (p : Pos) :
    (l.storeAtCursor c).getText p.toNat = if p = l.cs then c else l.getText p.toNat := by
  have hp : p.toNat < 4096 := p.isLt
  have hiff : p.toNat = l.cs.toNat ↔ p = l.cs := BitVec.toNat_inj
  unfold Lzc.storeAtCursor
  split
  · rw [Lzc.getText_setText, Lzc.getText_setText, if_neg (show p.toNat ≠ 4096 + l.cs.toNat by omega)]
    simp only [hiff]
  · rw [Lzc.getText_setText]
    simp only [hiff]

/-- The text writes of `PUTBYTE` change no key but those of the cursor and of the position before it. -/
theorem Lzc.key_storeAtCursor (l : Lzc) (c : Byte) {p : Pos} (hp : p ≠ l.cs) (hp' : p ≠ l.cs - 1#12) :
    (l.storeAtCursor c).key p = l.key p := by
  have hsucc : p + 1#12 ≠ l.cs := fun h => hp' (by rw [← h]; simp)
  simp only [Lzc.key, Lzc.getText_storeAtCursor, if_neg hp, if_neg hsucc]

/-- The two deletes, the text writes and the two inserts of `PUTBYTE` keep every position in its chain (R138). -/
theorem Lzc.LinkedOn.putByte {l : Lzc} (hl : l.LinkedOn Set.univ) (c : Byte) : (l.putByte c).LinkedOn Set.univ := by
  have hne : l.cs - 1#12 ≠ l.cs := by bv_omega
  have hdel := (hl.delete (Set.mem_univ (l.cs - 1#12))).delete (p := l.cs) ⟨Set.mem_univ _, hne.symm⟩
  have hstore := hdel.of_same_links (Lzc.getMap_storeAtCursor _ c) (Lzc.getPrev_storeAtCursor _ c)
    (Lzc.getNext_storeAtCursor _ c) fun p hp => Lzc.key_storeAtCursor _ c (by simpa using hp.2) (by simpa using hp.1.2)
  have hins := (hstore.insert (p := l.cs - 1#12) (by simp)).insert (p := l.cs) (by simp [hne.symm])
  have hall : Insert.insert l.cs (Insert.insert (l.cs - 1#12) ((Set.univ \ {l.cs - 1#12}) \ {l.cs})) = Set.univ := by
    ext p
    simp only [Set.mem_insert_iff, Set.mem_sdiff, Set.mem_singleton_iff, Set.mem_univ, true_and, iff_true]
    tauto
  rw [hall] at hins
  exact hins.of_same_links (fun _ => rfl) (fun _ => rfl) (fun _ => rfl) fun _ _ => rfl

/-- `PUTBYTE` keeps the invariant of R31 (R138). -/
theorem Lzc.ok_putByte (l : Lzc) (c : Byte) (hl : l.Ok) : (l.putByte c).Ok := by
  rw [Lzc.ok_iff] at hl ⊢
  obtain ⟨hlinks, hmirror⟩ := hl
  have hcs : l.cs.toNat < 4096 := l.cs.isLt
  refine ⟨hlinks.putByte c, fun i hi => ?_⟩
  rw [Lzc.getText_putByte, Lzc.getText_putByte, hmirror i hi]
  exact if_congr (by omega) rfl rfl

/-- Settles O32: the invariant by `Lzc.ok_putByte`; the text and the cursor by the writes of `PUTBYTE`. -/
theorem putByteKeepsInvariant : Obligations.PutByteKeepsInvariant := by
  refine fun l c hl => ⟨l.ok_putByte c hl, l.cs_putByte c, fun p => ?_⟩
  have hp : p.toNat < 4096 := p.isLt
  have hiff : p.toNat = l.cs.toNat ↔ p = l.cs := BitVec.toNat_inj
  rw [Lzc.getText_putByte]
  exact if_congr (Iff.trans (by omega) hiff) rfl rfl

/-! ## The dictionary after a compression (spec/41_lz_compress.md R151) -/

@[simp] theorem Comp.lzc_record (c : Comp) (isMatch : Bool) (bytes : List Byte) :
    (c.record isMatch bytes).lzc = c.lzc := by
  simp only [Comp.record]
  split <;> rfl

/-- A token takes at least one byte of the input, and puts what it takes into the dictionary. -/
theorem Comp.token_spec (c : Comp) (inp : List Byte) :
    1 ≤ (c.token inp).1 ∧ (c.token inp).2.lzc = c.lzc.putBytes (inp.take (c.token inp).1) := by
  unfold Comp.token
  split
  · next hlen => exact ⟨by simp only; omega, by rw [Comp.lzc_record]; rfl⟩
  · exact ⟨le_rfl, by rw [Comp.lzc_record]; rfl⟩

theorem Lzc.putBytes_append (l : Lzc) (cs ds : List Byte) : l.putBytes (cs ++ ds) = (l.putBytes cs).putBytes ds :=
  List.foldl_append

/-- With enough fuel the loop puts the whole input into the dictionary. -/
theorem Comp.lzc_loop (fuel : Nat) (inp : List Byte) (c : Comp) (hfuel : inp.length ≤ fuel) :
    (Comp.loop fuel inp c).lzc = c.lzc.putBytes inp := by
  induction fuel generalizing inp c with
  | zero =>
    obtain rfl := List.length_eq_zero_iff.mp (Nat.le_zero.mp hfuel)
    rfl
  | succ fuel ih =>
    cases inp with
    | nil => rfl
    | cons b rest =>
      obtain ⟨hpos, hput⟩ := c.token_spec (b :: rest)
      rw [List.length_cons] at hfuel
      have hrest : ((b :: rest).drop (c.token (b :: rest)).1).length ≤ fuel := by
        rw [List.length_drop, List.length_cons]
        omega
      rw [Comp.loop, ih _ _ hrest, hput, ← Lzc.putBytes_append, List.take_append_drop]

/-- A compression puts its input byte by byte into the dictionary. -/
theorem compress_lzc (l : Lzc) (inp : List Byte) : (compress l inp).2 = l.putBytes inp :=
  Comp.lzc_loop inp.length inp (Comp.start l) le_rfl

/-! ## What an instruction does to the dictionaries (spec/10_state.md R26 to R32) -/

/-- Both states have the same live dictionary, the same bank and the same `SNAP_VALID`. -/
structure State.SameDicts (s t : State) : Prop where
  /-- the live dictionary -/
  lzc : t.lzc = s.lzc
  /-- the snapshot bank -/
  snap : t.snap = s.snap
  /-- `SNAP_VALID` -/
  snapValid : t.snapValid = s.snapValid

theorem State.SameDicts.refl (s : State) : s.SameDicts s := ⟨rfl, rfl, rfl⟩

theorem State.SameDicts.trans {s t u : State} (h : s.SameDicts t) (h' : t.SameDicts u) : s.SameDicts u :=
  ⟨h'.lzc.trans h.lzc, h'.snap.trans h.snap, h'.snapValid.trans h.snapValid⟩

theorem lzAbort_sameDicts (c : Cause) (info : Nat) (s : State) : s.SameDicts (lzAbort c info s) :=
  ⟨lzAbort_lzc c info s, lzAbort_snap c info s, lzAbort_snapValid c info s⟩

theorem grAbort_sameDicts (c : Cause) (info : Nat) (s : State) : s.SameDicts (grAbort c info s) := by
  obtain ⟨m, hm⟩ := grAbort_frame c info s
  rw [hm]
  exact ⟨by simp, by simp, by simp⟩

theorem runToken_sameDicts (t : LzToken) (s : State) : s.SameDicts (runToken t s) := by
  rcases runToken_cases t s with ⟨c, info, h⟩ | ⟨d, m, l, h, -⟩ <;> rw [h]
  · exact lzAbort_sameDicts c info s
  · exact ⟨rfl, rfl, rfl⟩

theorem runCode_sameDicts (c : GrCode) (s : State) : s.SameDicts (runCode c s) := by
  rcases runCode_cases c s with ⟨e, info, h⟩ | ⟨m, g, h, -⟩ <;> rw [h]
  · exact grAbort_sameDicts e info s
  · exact ⟨rfl, rfl, rfl⟩

theorem lzMicro_sameDicts (s : State) : s.SameDicts (lzMicro s) := by
  rcases lzMicro_cases s with h | ⟨c, info, h⟩ | ⟨d, m, l, h, -⟩ <;> rw [h]
  · exact ⟨rfl, rfl, rfl⟩
  · exact lzAbort_sameDicts c info s
  · exact ⟨rfl, rfl, rfl⟩

theorem grMicro_sameDicts (s : State) : s.SameDicts (grMicro s) := by
  rcases grMicro_cases s with h | ⟨c, info, h⟩ | ⟨m, g, h, -⟩ <;> rw [h]
  · exact ⟨rfl, rfl, rfl⟩
  · exact grAbort_sameDicts c info s
  · exact ⟨rfl, rfl, rfl⟩

/-- What every move keeps, `LZ.DECOMP` keeps. -/
theorem lzDecomp_keeps {P : State → Prop} {s : State} (hmicro : ∀ u, P u → P (lzMicro u)) (h : P (lzBegin s)) :
    P (lzDecomp s) := by
  rw [lzDecomp, lzRun_eq_movesOf]
  exact movesOf_keeps hmicro _ _ h

/-- What a data fault and every move keep, `GR.DEC` keeps. -/
theorem grDec_keeps {P : State → Prop} {s : State} (hmicro : ∀ u, P u → P (grMicro u)) (hs : P s)
    (habort : P (grAbort .grIndexRange 0 s)) (hbegin : ∀ b, P (grBegin b s)) : P (grDec s) := by
  unfold grDec
  split
  · exact hs
  · split
    · exact habort
    · rw [grRun_eq_movesOf]
      exact movesOf_keeps hmicro _ _ (hbegin _)

theorem lzDecomp_sameDicts (s : State) : s.SameDicts (lzDecomp s) :=
  lzDecomp_keeps (fun u hu => hu.trans (lzMicro_sameDicts u)) ⟨rfl, rfl, rfl⟩

theorem grDec_sameDicts (s : State) : s.SameDicts (grDec s) :=
  grDec_keeps (fun u hu => hu.trans (grMicro_sameDicts u)) (.refl s) (grAbort_sameDicts _ _ s)
    fun _ => ⟨rfl, rfl, rfl⟩

theorem hostAccess_sameDicts {a : HostAccess} {s t : State} (h : hostAccess a s = .next t) : s.SameDicts t := by
  cases a with
  | writeByte sp i b =>
    rw [State.atIndex_next h]
    exact ⟨s.lzc_writeByte sp i b, s.snap_writeByte sp i b, s.snapValid_writeByte sp i b⟩
  | readByte sp i =>
    rw [State.atIndex_next h]
    exact ⟨rfl, rfl, rfl⟩
  | writePix i v =>
    obtain ⟨m, hm⟩ := s.writePixWord_frame i v
    rw [State.atIndex_next h, hm]
    exact ⟨rfl, rfl, rfl⟩
  | readPix i =>
    rw [State.atIndex_next h]
    exact ⟨rfl, rfl, rfl⟩
  | _ =>
    cases h
    exact ⟨rfl, rfl, rfl⟩

/-- Which of the dictionaries an instruction writes, and with what. -/
inductive DictEffect (s t : State) : Instr → Prop
  /-- none: every instruction may end so, and most do always -/
  | none (i : Instr) (h : s.SameDicts t) : DictEffect s t i
  /-- the reset state of LZC, and no valid snapshot (R150, R240) -/
  | resets (i : Instr) (hi : i = .lzCreset ∨ i = .sysReset) (hlzc : t.lzc = Lzc.fresh) (hsnap : t.snap = s.snap)
      (hvalid : t.snapValid = false) : DictEffect s t i
  /-- the input goes into the live dictionary (R151) -/
  | compresses (hlzc : t.lzc = s.lzc.putBytes s.input) (hsnap : t.snap = s.snap) (hvalid : t.snapValid = s.snapValid) :
      DictEffect s t .lzComp
  /-- the bank is copied back (R154) -/
  | restores (hbank : s.snapValid = true) (hlzc : t.lzc = s.snap) (hsnap : t.snap = s.snap)
      (hvalid : t.snapValid = s.snapValid) : DictEffect s t .lzRestore
  /-- the live dictionary goes into the bank (R153); in `LZ.CBLK` the input may go into the live one after that
  (R155) -/
  | stores (i : Instr) (hi : i = .lzStore ∨ i = .lzCblk)
      (hlzc : t.lzc = s.lzc ∨ t.lzc = s.lzc.putBytes s.input) (hsnap : t.snap = s.lzc)
      (hvalid : t.snapValid = true) : DictEffect s t i

theorem whenReady_dictEffect {i : Instr} {f : State → State} {s : State} (h : DictEffect s (f s) i) :
    DictEffect s (whenReady f s) i :=
  whenReady_cases (DictEffect s · i) f s (.none i (.refl s)) fun _ => h

theorem checked_dictEffect {i : Instr} {checks : State → List (Bool × Nat)} {f : State → State} {s : State}
    (h : DictEffect s (f s) i) : DictEffect s (checked checks f s) i :=
  checked_cases (DictEffect s · i) checks f s (fun _ _ => .none i ⟨rfl, rfl, rfl⟩) fun _ => h

/-- `LZ.COMP` past its checks, on the dictionaries. -/
theorem lzComp_dicts (s : State) :
    (lzComp s).lzc = s.lzc.putBytes s.input ∧ (lzComp s).snap = s.snap ∧ (lzComp s).snapValid = s.snapValid := by
  obtain ⟨m, hm⟩ := s.writeBytes_frame .obuf 0 (compress s.lzc s.input).1
  rw [lzComp, hm, compress_lzc]
  exact ⟨rfl, rfl, rfl⟩

theorem lzRestore_dictEffect (s : State) : DictEffect s (lzRestore s) .lzRestore := by
  unfold lzRestore
  split
  · next hbank => exact .restores hbank rfl rfl rfl
  · exact .none _ ⟨rfl, rfl, rfl⟩

theorem State.input_lzStore (s : State) : (lzStore s).input = s.input := by
  have hfrom (n a : Nat) : (lzStore s).inputFrom a n = s.inputFrom a n := by
    induction n generalizing a with
    | zero => rfl
    | succ n ih => exact congrArg (List.cons _) (ih (a + 1))
  exact hfrom _ _

theorem lzCblk_dictEffect (s : State) : DictEffect s (lzCblk s) .lzCblk := by
  obtain ⟨hlzc, hsnap, hvalid⟩ := lzComp_dicts (lzStore s)
  rw [State.input_lzStore] at hlzc
  unfold lzCblk
  generalize lzComp (lzStore s) = attempt at hlzc hsnap hvalid ⊢
  split
  · exact .stores _ (.inr rfl) (.inr hlzc) hsnap hvalid
  · obtain ⟨m, hm⟩ := storeRaw_frame attempt
    rw [hm]
    exact .stores _ (.inr rfl) (.inl hsnap) hsnap hvalid

/-- What every instruction does to the dictionaries. -/
theorem exec_dictEffect {i : Instr} {s t : State} (h : exec i s = .next t) : DictEffect s t i := by
  have hnone (f : State → State) (hf : s.SameDicts (f s)) : DictEffect s (whenReady f s) i :=
    whenReady_dictEffect (.none i hf)
  cases i <;> cases h
  case sysReset => exact .resets _ (.inr rfl) rfl rfl rfl
  case lzCreset => exact whenReady_dictEffect (.resets _ (.inl rfl) rfl rfl rfl)
  case lzComp =>
    obtain ⟨hlzc, hsnap, hvalid⟩ := lzComp_dicts s
    exact whenReady_dictEffect (checked_dictEffect (.compresses hlzc hsnap hvalid))
  case lzStore => exact whenReady_dictEffect (.stores _ (.inl rfl) (.inl rfl) rfl rfl)
  case lzRestore => exact whenReady_dictEffect (lzRestore_dictEffect s)
  case lzCblk => exact whenReady_dictEffect (checked_dictEffect (lzCblk_dictEffect s))
  case lzDecomp => exact whenReady_dictEffect (checked_dictEffect (.none _ (lzDecomp_sameDicts s)))
  case grDec => exact whenReady_dictEffect (checked_dictEffect (.none _ (grDec_sameDicts s)))
  case ctrl f => exact hnone _ (runToken_sameDicts (.ctrl f) s)
  case lit c => exact hnone _ (runToken_sameDicts (.lit c) s)
  case lzMatch p lc => exact hnone _ (runToken_sameDicts (.short p lc) s)
  case lzMatchx p e => exact hnone _ (runToken_sameDicts (.long p e) s)
  case gamma z k => exact hnone _ (runCode_sameDicts (.gamma z k) s)
  case golomb q r => exact hnone _ (runCode_sameDicts (.golomb q r) s)
  case golombx q r => exact hnone _ (runCode_sameDicts (.golombx q r) s)
  all_goals exact hnone _ ⟨rfl, rfl, rfl⟩

/-- Settles O26: of the effects on the dictionaries only the store writes the bank, and only it and the resets write
`SNAP_VALID`. -/
theorem snapshotWrittenOnlyBy : Obligations.SnapshotWrittenOnlyBy := by
  intro i s t h
  cases exec_dictEffect h with
  | none i hsame => exact ⟨fun hne => absurd hsame.snap hne, fun hne => absurd hsame.snapValid hne⟩
  | resets i hi hlzc hsnap hvalid => exact ⟨fun hne => absurd hsnap hne, fun _ => by simpa [hvalid] using hi⟩
  | compresses hlzc hsnap hvalid => exact ⟨fun hne => absurd hsnap hne, fun hne => absurd hvalid hne⟩
  | restores hbank hlzc hsnap hvalid => exact ⟨fun hne => absurd hsnap hne, fun hne => absurd hvalid hne⟩
  | stores i hi hlzc hsnap hvalid => exact ⟨fun _ => ⟨hi, hsnap, hvalid⟩, fun _ => by simpa [hvalid] using hi⟩

/-! ## What every move of the machine keeps, every step keeps -/

/-- A property of states that each move of the machine keeps. -/
structure KeptByMoves (P : State → Prop) : Prop where
  /-- taking an event off the list -/
  setEvents : ∀ (s : State) (es : List Event), P s → P (s.setEvents es)
  /-- power-on reset -/
  powerOn : ∀ s : State, P s → P (powerOnReset s)
  /-- a host access -/
  access : ∀ (a : HostAccess) (s t : State), P s → hostAccess a s = .next t → P t
  /-- an instruction -/
  exec : ∀ (i : Instr) (s t : State), P s → exec i s = .next t → P t
  /-- a word that is no command -/
  illegal : ∀ (w : Word) (s : State), P s → P (illegalCommand w s)
  /-- a move of `LZ.DECOMP` -/
  lzMicro : ∀ s : State, P s → P (lzMicro s)
  /-- a move of `GR.DEC` -/
  grMicro : ∀ s : State, P s → P (grMicro s)

theorem KeptByMoves.step {P : State → Prop} (hP : KeptByMoves P) {s t : State} (hs : P s) (h : step s = .next t) :
    P t := by
  have hrule := step_rule s
  generalize Machine.step s = o at h hrule
  cases hrule with
  | accesses hp a rest he => exact hP.access a _ t (hP.setEvents s rest hs) h
  | commands hp w rest i he hd => exact hP.exec i _ t (hP.setEvents s rest hs) h
  | powersOn hp rest he =>
    cases h
    exact hP.powerOn _ (hP.setEvents s rest hs)
  | illegal hp w rest r he hd =>
    cases h
    exact hP.illegal w _ (hP.setEvents s rest hs)
  | lzMove hp =>
    cases h
    exact hP.lzMicro s hs
  | grMove hp =>
    cases h
    exact hP.grMicro s hs
  | waits hp he =>
    cases h
    exact hs
  | refused hp he =>
    cases h
    exact hs

/-! ## Every step keeps the dictionaries' properties -/

/-- The live dictionary has a property, and so has the bank while it holds a snapshot. -/
def State.DictsHave (Good : Lzc → Prop) (s : State) : Prop := Good s.lzc ∧ (s.snapValid = true → Good s.snap)

section
variable {Good : Lzc → Prop}

theorem State.SameDicts.dictsHave {s t : State} (h : s.SameDicts t) (hs : s.DictsHave Good) : t.DictsHave Good := by
  rw [State.DictsHave, h.lzc, h.snap, h.snapValid]
  exact hs

theorem dictsHave_of_not_valid {s : State} (hlzc : Good s.lzc) (hvalid : s.snapValid = false) : s.DictsHave Good :=
  ⟨hlzc, fun h => by simp [hvalid] at h⟩

theorem putBytes_keeps (hput : ∀ l c, Good l → Good (l.putByte c)) (cs : List Byte) (l : Lzc) (h : Good l) :
    Good (l.putBytes cs) := by
  induction cs generalizing l with
  | nil => exact h
  | cons c rest ih => exact ih (l.putByte c) (hput l c h)

/-- A property of the reset dictionary that `PUTBYTE` keeps is one that every instruction keeps. -/
theorem exec_keeps_dictsHave (hfresh : Good Lzc.fresh) (hput : ∀ l c, Good l → Good (l.putByte c)) {i : Instr}
    {s t : State} (hs : s.DictsHave Good) (h : exec i s = .next t) : t.DictsHave Good := by
  obtain ⟨hlive, hbank⟩ := hs
  cases exec_dictEffect h with
  | none i hsame => exact hsame.dictsHave ⟨hlive, hbank⟩
  | resets i hi hlzc hsnap hvalid => exact dictsHave_of_not_valid (hlzc ▸ hfresh) hvalid
  | compresses hlzc hsnap hvalid =>
    rw [State.DictsHave, hlzc, hsnap, hvalid]
    exact ⟨putBytes_keeps hput _ _ hlive, hbank⟩
  | restores hfull hlzc hsnap hvalid =>
    rw [State.DictsHave, hlzc, hsnap]
    exact ⟨hbank hfull, fun _ => hbank hfull⟩
  | stores i hi hlzc hsnap hvalid =>
    rw [State.DictsHave, hsnap]
    refine ⟨?_, fun _ => hlive⟩
    rcases hlzc with hlzc | hlzc <;> rw [hlzc]
    exacts [hlive, putBytes_keeps hput _ _ hlive]

/-- A property of the reset dictionary that `PUTBYTE` keeps is kept by every move of the machine. -/
theorem dictsHave_keptByMoves (hfresh : Good Lzc.fresh) (hput : ∀ l c, Good l → Good (l.putByte c)) :
    KeptByMoves (State.DictsHave Good) where
  setEvents _ _ hs := hs
  powerOn _ _ := dictsHave_of_not_valid hfresh rfl
  access _ _ _ hs h := (hostAccess_sameDicts h).dictsHave hs
  exec _ _ _ hs h := exec_keeps_dictsHave hfresh hput hs h
  illegal w s hs := whenReady_cases (State.DictsHave Good) (raise .illegalCmd w.toNat) s hs fun _ => hs
  lzMicro s hs := (lzMicro_sameDicts s).dictsHave hs
  grMicro s hs := (grMicro_sameDicts s).dictsHave hs

end

/-- Settles O33: the reset dictionary meets the invariant of R31, and `PUTBYTE` keeps it. -/
theorem stepKeepsDictionaries : Obligations.StepKeepsDictionaries := fun _ _ hs h =>
  (dictsHave_keptByMoves (Good := Lzc.Ok) (Lzc.ok_empty 0#12) Lzc.ok_putByte).step hs h

/-! ## Every step keeps buffers and ring canonical (assumption logs 7 and 13) -/

/-- The buffers and the ring are in canonical form. -/
def State.BuffersCanonical (s : State) : Prop := s.memWf ∧ tabCanon resetText 4096 s.lzd.text

/-- The whole state is canonical when its buffers, its ring and its dictionaries are. -/
theorem State.canonical_iff (s : State) :
    s.Canonical ↔ s.BuffersCanonical ∧ s.DictsHave Lzc.Canonical :=
  ⟨fun ⟨hmem, hlzc, hring, hsnap⟩ => ⟨⟨hmem, hring⟩, hlzc, hsnap⟩,
    fun ⟨⟨hmem, hring⟩, hlzc, hsnap⟩ => ⟨hmem, hlzc, hring, hsnap⟩⟩

theorem Lzd.canon_fresh : tabCanon resetText 4096 Lzd.fresh.text :=
  ⟨List.Pairwise.nil, fun _ he => absurd he List.not_mem_nil⟩

section
variable {s : State}

theorem State.BuffersCanonical.setMem (hs : s.BuffersCanonical) (sp : Space) {m : Memory} (hm : m.wf) :
    (s.setMem sp m).BuffersCanonical :=
  ⟨s.memWf_setMem sp m hs.1 hm, by rw [State.lzd_setMem]; exact hs.2⟩

theorem State.BuffersCanonical.writeByte (hs : s.BuffersCanonical) (sp : Space) (a : Nat) (b : Byte) :
    (s.writeByte sp a b).BuffersCanonical :=
  hs.setMem sp (Memory.wf_write _ a b (hs.1 sp))

theorem State.BuffersCanonical.writeBytes (hs : s.BuffersCanonical) (sp : Space) (a : Nat) (bs : List Byte) :
    (s.writeBytes sp a bs).BuffersCanonical := by
  induction bs generalizing s a with
  | nil => exact hs
  | cons b rest ih => exact ih (hs.writeByte sp a b) (a + 1)

theorem State.BuffersCanonical.setLzd (hs : s.BuffersCanonical) {d : Lzd} (hd : tabCanon resetText 4096 d.text) :
    (s.setLzd d).BuffersCanonical := ⟨hs.1, hd⟩

theorem State.BuffersCanonical.raise (hs : s.BuffersCanonical) (c : Cause) (info : Nat) :
    (raise c info s).BuffersCanonical := hs

/-! ### `LZ.DECOMP` -/

theorem State.BuffersCanonical.emit (hs : s.BuffersCanonical) (c : Byte) : (s.emit c).BuffersCanonical :=
  (hs.setLzd (s.lzd.canon_push c hs.2)).writeByte .obuf s.lz.op c

theorem State.BuffersCanonical.copyMatch (hs : s.BuffersCanonical) (n : Nat) (p : Pos) :
    (copyMatch n p s).BuffersCanonical := by
  induction n generalizing s p with
  | zero => exact hs
  | succ n ih => exact ih (hs.emit _) _

theorem State.BuffersCanonical.lzAbort (hs : s.BuffersCanonical) (c : Cause) (info : Nat) :
    (lzAbort c info s).BuffersCanonical :=
  (hs.setLzd (Lzd.canon_free s.draws)).setMem .obuf List.Pairwise.nil

theorem State.BuffersCanonical.runToken (hs : s.BuffersCanonical) (t : LzToken) : (runToken t s).BuffersCanonical := by
  have hmatch (bytes len : Nat) (p : Pos) : (matchItem bytes len p s).BuffersCanonical := by
    unfold matchItem
    split
    · exact hs.lzAbort _ _
    · exact State.BuffersCanonical.copyMatch (s := (s.useControlBit).skipInput bytes) hs len p
  cases t with
  | ctrl f =>
    simp only [Machine.runToken, ctrlItem]
    split
    · exact hs.lzAbort _ _
    · exact hs
  | lit c =>
    simp only [Machine.runToken, litItem]
    split
    · exact hs.lzAbort _ _
    · exact State.BuffersCanonical.emit (s := (s.useControlBit).skipInput 1) hs c
  | short p lc => exact hmatch 2 (shortLen lc) p
  | long p e => exact hmatch 3 (longLen e) p

theorem State.BuffersCanonical.lzMicro (hs : s.BuffersCanonical) : (lzMicro s).BuffersCanonical := by
  unfold Machine.lzMicro
  split
  · exact hs
  · exact hs.lzAbort _ _
  · exact hs.runToken _

/-! ### `GR.DEC` -/

theorem State.BuffersCanonical.writePixLane (hs : s.BuffersCanonical) (i k : Nat) (b : Byte) :
    (s.writePixLane i k b).BuffersCanonical := hs.writeByte .pix (4 * i + k) b

theorem State.BuffersCanonical.writePixWord (hs : s.BuffersCanonical) (i : Nat) (v : Word) :
    (s.writePixWord i v).BuffersCanonical :=
  (((hs.writePixLane i 0 _).writePixLane i 1 _).writePixLane i 2 _).writePixLane i 3 _

theorem State.BuffersCanonical.putPix (hs : s.BuffersCanonical) (i : Nat) (e : Byte) :
    (putPix i e s).BuffersCanonical := by
  unfold Machine.putPix
  split
  · exact hs.writePixWord i _
  · exact hs.writePixLane i _ e

theorem State.BuffersCanonical.putZeros (hs : s.BuffersCanonical) (n i : Nat) : (putZeros n i s).BuffersCanonical := by
  induction n generalizing s i with
  | zero => exact hs
  | succ n ih => exact ih (hs.putPix i 0#8) (i + 1)

theorem State.BuffersCanonical.grAbort (hs : s.BuffersCanonical) (c : Cause) (info : Nat) :
    (grAbort c info s).BuffersCanonical := by
  have hmem := memWf_forgetWords s.draws (s.x.first == 1#32) s.x.chan.toNat s.x.pixCount.toNat s.x.pixBase.toNat
    (Machine.endCommand s) hs.1
  obtain ⟨m, hm⟩ := forgetWords_frame s.draws (s.x.first == 1#32) s.x.chan.toNat s.x.pixCount.toNat
    s.x.pixBase.toNat (Machine.endCommand s)
  rw [hm] at hmem
  rw [Machine.grAbort, grUnspecify]
  simp only [endCommand_draws, endCommand_x]
  rw [hm]
  exact State.BuffersCanonical.raise ⟨hmem, hs.2⟩ c info

theorem State.BuffersCanonical.runCode (hs : s.BuffersCanonical) (c : GrCode) : (runCode c s).BuffersCanonical := by
  have hresidual (v : Nat) (cur : BitCursor) : (takeResidual v cur s).BuffersCanonical := hs.putPix _ _
  cases c with
  | gamma z k =>
    simp only [Machine.runCode, gammaCode]
    split
    · exact hs.grAbort _ _
    · split
      · exact hs.putZeros _ _
      · exact hs
  | golomb q r =>
    simp only [Machine.runCode, golombCode]
    split
    · exact hs.grAbort _ _
    · exact hresidual _ _
  | golombx q r =>
    simp only [Machine.runCode, golombxCode]
    split
    · exact hs.grAbort _ _
    · exact hresidual _ _

theorem State.BuffersCanonical.grMicro (hs : s.BuffersCanonical) : (grMicro s).BuffersCanonical := by
  unfold Machine.grMicro
  split
  · exact hs
  · exact hs.grAbort _ _
  · exact hs.runCode _

/-! ### The compress commands, and every move -/

theorem State.BuffersCanonical.lzComp (hs : s.BuffersCanonical) : (lzComp s).BuffersCanonical :=
  hs.writeBytes .obuf 0 _

theorem State.BuffersCanonical.lzRestore (hs : s.BuffersCanonical) : (lzRestore s).BuffersCanonical := by
  unfold Machine.lzRestore
  split
  · exact hs
  · exact hs.raise _ _

theorem State.BuffersCanonical.storeRaw (hs : s.BuffersCanonical) : (storeRaw s).BuffersCanonical :=
  State.BuffersCanonical.writeBytes (s := s.setLzc s.snap) hs .obuf 0 s.input

theorem State.BuffersCanonical.lzCblk (hs : s.BuffersCanonical) : (lzCblk s).BuffersCanonical := by
  have hattempt : (Machine.lzComp (lzStore s)).BuffersCanonical :=
    State.BuffersCanonical.lzComp (s := lzStore s) hs
  unfold Machine.lzCblk
  split
  · exact hattempt
  · exact hattempt.storeRaw

theorem State.BuffersCanonical.whenReady (hs : s.BuffersCanonical) {f : State → State}
    (hf : (f s).BuffersCanonical) : (whenReady f s).BuffersCanonical :=
  whenReady_cases State.BuffersCanonical f s hs fun _ => hf

theorem State.BuffersCanonical.checked (hs : s.BuffersCanonical) {checks : State → List (Bool × Nat)}
    {f : State → State} (hf : (f s).BuffersCanonical) : (checked checks f s).BuffersCanonical :=
  checked_cases State.BuffersCanonical checks f s (fun k _ => hs.raise .badOperand k) fun _ => hf

theorem State.BuffersCanonical.exec (hs : s.BuffersCanonical) {i : Instr} {t : State} (h : exec i s = .next t) :
    t.BuffersCanonical := by
  cases i <;> cases h
  case sysReset => exact hs.setLzd Lzd.canon_fresh
  case lzComp => exact hs.whenReady (hs.checked hs.lzComp)
  case lzRestore => exact hs.whenReady hs.lzRestore
  case lzCblk => exact hs.whenReady (hs.checked hs.lzCblk)
  case lzDreset => exact hs.whenReady (hs.setLzd Lzd.canon_fresh)
  case lzPrime => exact hs.whenReady (hs.setLzd Lzd.canon_primed)
  case lzDecomp => exact hs.whenReady (hs.checked (lzDecomp_keeps (fun _ hu => hu.lzMicro) hs))
  case grDec =>
    exact hs.whenReady (hs.checked (grDec_keeps (fun _ hu => hu.grMicro) hs (hs.grAbort _ _) fun _ => hs))
  case ctrl f => exact hs.whenReady (hs.runToken (.ctrl f))
  case lit c => exact hs.whenReady (hs.runToken (.lit c))
  case lzMatch p lc => exact hs.whenReady (hs.runToken (.short p lc))
  case lzMatchx p e => exact hs.whenReady (hs.runToken (.long p e))
  case gamma z k => exact hs.whenReady (hs.runCode (.gamma z k))
  case golomb q r => exact hs.whenReady (hs.runCode (.golomb q r))
  case golombx q r => exact hs.whenReady (hs.runCode (.golombx q r))
  all_goals exact hs.whenReady hs

theorem State.BuffersCanonical.access (hs : s.BuffersCanonical) {a : HostAccess} {t : State}
    (h : hostAccess a s = .next t) : t.BuffersCanonical := by
  cases a with
  | writeByte sp i b => exact State.atIndex_next h ▸ hs.writeByte sp i b
  | readByte sp i => exact State.atIndex_next h ▸ hs
  | writePix i v => exact State.atIndex_next h ▸ hs.writePixWord i v
  | readPix i => exact State.atIndex_next h ▸ hs
  | _ =>
    cases h
    exact hs

end

theorem buffersCanonical_keptByMoves : KeptByMoves State.BuffersCanonical where
  setEvents _ _ hs := hs
  powerOn s _ := ⟨powerUp_memWf s.cfg s.draws, Lzd.canon_fresh⟩
  access _ _ _ hs h := hs.access h
  exec _ _ _ hs h := hs.exec h
  illegal w _ hs := hs.whenReady (hs.raise .illegalCmd w.toNat)
  lzMicro _ hs := hs.lzMicro
  grMicro _ hs := hs.grMicro

/-- Settles O58: buffers and ring stay canonical by every write, the dictionaries because `PUTBYTE` keeps them so. -/
theorem stepKeepsCanonical : Obligations.StepKeepsCanonical := by
  intro s t hs h
  rw [State.canonical_iff] at hs ⊢
  obtain ⟨hbuffers, hdicts⟩ := hs
  exact ⟨buffersCanonical_keptByMoves.step hbuffers h,
    (dictsHave_keptByMoves Lzc.canonical_fresh Lzc.canonical_putByte).step hdicts h⟩

/-! ## The fault registers (spec/10_state.md R23, R24) -/

/-- The one word that is `SYS.RESET` (R92). -/
theorem word_of_sysReset {w : Word} (h : decodeCommand w = .ok .sysReset) : w = 0x00000001#32 := by
  unfold decodeCommand at h
  split at h
  · next hhigh =>
    split at h
    · next i hop =>
      cases h
      obtain ⟨e, hfind, hi⟩ := Option.map_eq_some_iff.mp hop
      have honly : ∀ e ∈ opcodeTable, e.2 = .sysReset → e.1 = 1 := by decide
      have hlow : e.1 = (w.extractLsb' 0 8).toNat := by simpa using List.find?_some hfind
      rw [honly e (List.mem_of_find?_eq_some hfind) hi, BitVec.extractLsb'_toNat] at hlow
      have hzero := congrArg BitVec.toNat hhigh
      rw [BitVec.extractLsb'_toNat] at hzero
      simp only [Nat.shiftRight_eq_div_pow, BitVec.toNat_ofNat] at hlow hzero
      exact BitVec.eq_of_toNat_eq (by rw [BitVec.toNat_ofNat]; omega)
    · cases h
  · cases h

/-- While `ERR` is not 0 every instruction but `SYS.RESET` does nothing (R242). -/
theorem exec_faulted {i : Instr} {s : State} (he : s.err ≠ 0#8) (hi : i ≠ .sysReset) : exec i s = .next s := by
  have hready (f : State → State) : Host.Outcome.next (ρ := Refusal) (φ := Fault) (whenReady f s) = .next s := by
    rw [whenReady_faulted f s he]
  cases exec_kind i s with
  | sysReset => exact absurd rfl hi
  | lzDecomp => exact hready _
  | grDec => exact hready _
  | token t => rw [exec_tokenInstr, hready]
  | code c => rw [exec_codeInstr, hready]
  | plain i f hexec hf => rw [hexec, hready]

/-- No host access writes `ERR` (R23, R264 (h)). -/
theorem hostAccess_err {a : HostAccess} {s t : State} (h : hostAccess a s = .next t) : t.err = s.err := by
  cases a with
  | writeByte sp i b => rw [State.atIndex_next h, State.err_writeByte]
  | readByte sp i => rw [State.atIndex_next h, State.err_setBus]
  | writePix i v =>
    obtain ⟨m, hm⟩ := s.writePixWord_frame i v
    rw [State.atIndex_next h, hm, State.err_setPix]
  | readPix i => rw [State.atIndex_next h, State.err_setBus]
  | _ =>
    cases h
    rfl

/-- Settles O12: between commands only power-on and `SYS.RESET` get past a non-zero `ERR`. -/
theorem faultIsSticky : Obligations.FaultIsSticky := by
  intro s t hidle herr h hne
  have hrule := step_rule s
  generalize step s = o at h hrule
  cases hrule with
  | powersOn hp rest he =>
    cases h
    exact ⟨rfl, rest, .inl he⟩
  | commands hp w rest i he hd =>
    by_cases hi : i = .sysReset
    · subst hi
      cases h
      exact ⟨rfl, rest, .inr (word_of_sysReset hd ▸ he)⟩
    · rw [exec_faulted (s := s.setEvents rest) herr hi] at h
      cases h
      exact absurd rfl hne
  | accesses hp a rest he => exact absurd (hostAccess_err h) hne
  | illegal hp w rest r he hd =>
    rw [illegalCommand, whenReady_faulted _ (s.setEvents rest) herr] at h
    cases h
    exact absurd rfl hne
  | lzMove hp => simp [hidle] at hp
  | grMove hp => simp [hidle] at hp
  | waits hp he =>
    cases h
    exact absurd rfl hne
  | refused hp he => exact absurd hidle hp

/-! ## Host accesses to the registers -/

/-- Between commands the host's access is the step. -/
theorem step_of_access {s : State} {a : HostAccess} {rest : List Event} (hp : s.phase = .idle)
    (he : s.events = .access a :: rest) : step s = hostAccess a (s.setEvents rest) := by
  simp only [step, fetch, fetchEvent, hp, he]

/-- Settles O21: each access by its meaning; a write of `ERR` or `ERR_INFO` is ignored. -/
theorem hostRegisterAccess : Obligations.HostRegisterAccess := by
  intro s rest r v hp
  refine ⟨fun he => ?_, fun he => step_of_access hp he, fun he => step_of_access hp he, fun he => step_of_access hp he,
    fun he => step_of_access hp he, fun he => ?_, fun he => step_of_access hp he⟩
  · exact ⟨s.x.write r v, step_of_access hp he, s.x.read_write_same r v, fun q hq => s.x.read_write_other r q v hq⟩
  · refine ⟨s.err.zeroExtend 32, step_of_access hp he, ?_⟩
    rw [BitVec.toNat_setWidth]
    have herr : s.err.toNat < 2 ^ 8 := s.err.isLt
    omega

/-! ## Reset (spec/10_state.md R39) -/

/-- R39's values do not depend on what is pending. -/
theorem State.HoldsResetValues.setEvents {s : State} (hs : s.HoldsResetValues) (es : List Event) :
    (s.setEvents es).HoldsResetValues :=
  ⟨hs.registers, hs.err, hs.errInfo, hs.compressor, hs.snapValid, hs.decompressor⟩

/-- Settles O18: the step is `powerOnReset`, which leads to the state after power-on with the events still pending. -/
theorem powerOnResets : Obligations.PowerOnResets := by
  intro s rest hp he
  have hstep : step s = .next (powerOnReset (s.setEvents rest)) := by simp only [step, fetch, fetchEvent, hp, he]
  have hread (sp : Space) (a : Nat) :
      (powerOnReset (s.setEvents rest)).readByte sp a = Config.freeByte sp s.draws a := by cases sp <;> rfl
  exact ⟨_, hstep, (powerUp_holdsResetValues s.cfg s.draws).setEvents rest, ⟨rfl, rfl, rfl⟩, rfl, rfl, hread⟩

theorem resetBlock_holdsResetValues (s : State) : (resetBlock s).HoldsResetValues where
  registers := Regs.read_zero
  err := rfl
  errInfo := rfl
  compressor := Lzc.fresh_holdsReset
  snapValid := rfl
  decompressor := Lzd.fresh_holdsReset

/-- Settles O20: `SYS.RESET` is `resetBlock`, whatever `ERR` is. -/
theorem sysResetResets : Obligations.SysResetResets := fun s =>
  ⟨resetBlock s, rfl, resetBlock_holdsResetValues s, ⟨rfl, rfl, rfl⟩, rfl, rfl, rfl, rfl, rfl, rfl, rfl, rfl, rfl⟩

/-- Settles O60: nothing is listed, nothing runs and nothing has faulted. -/
theorem resetMeetsInvariants : Obligations.ResetMeetsInvariants := by
  have hdicts : State.reset.DictsOk := dictsHave_of_not_valid (Good := Lzc.Ok) (Lzc.ok_empty 0#12) rfl
  have hcanonical : State.reset.Canonical := State.reset.canonical_iff.mpr
    ⟨⟨reset_memWf, Lzd.canon_fresh⟩, dictsHave_of_not_valid Lzc.canonical_fresh rfl⟩
  have hinside : State.reset.Inside := fun sp e he => by cases sp <;> cases he
  have hgr : State.reset.GrInside := fun hp => by cases hp
  have herrors : State.reset.ErrorsOk := ⟨by decide, fun _ => rfl, fun h => (by cases h), fun _ => rfl⟩
  exact ⟨hdicts, hcanonical, hinside, hgr, herrors, State.reset.detailsOk_of_err_zero rfl,
    State.reset.commandOk_of_idle rfl, ⟨rfl, rfl, rfl⟩⟩

/-! ## The construction of the reset dictionary by inserts (spec/10_state.md R39, spec/41_lz_compress.md R150) -/

/-- The construction has inserted the positions from `n` on: they are one chain, the lowest position the newest. -/
structure Lzc.BuiltDownTo (l : Lzc) (n : Nat) : Prop where
  /-- the text is cleared -/
  text : ∀ i : Nat, l.getText i = 0#8
  /-- the chain of key 0 starts at `n` -/
  mapZero : l.getMap 0#16 = if n < 4096 then some (BitVec.ofNat 12 n) else none
  /-- no other key has a chain -/
  mapRest : ∀ h : BitVec 16, h ≠ 0#16 → l.getMap h = none
  /-- the older neighbour of a position inserted is the next higher one -/
  next : ∀ p : Pos, l.getNext p = if n ≤ p.toNat ∧ p.toNat < 4095 then some (p + 1#12) else none
  /-- the newer neighbour of a position inserted is the next lower one -/
  prev : ∀ p : Pos, l.getPrev p = if n < p.toNat then some (p - 1#12) else none
  /-- the cursor is cleared -/
  cursor : l.cs = 0#12

theorem Lzc.cleared_builtDownTo : Lzc.cleared.BuiltDownTo 4096 where
  text _ := rfl
  mapZero := by simp [Lzc.getMap, Lzc.cleared, tabGet_ofFn]
  mapRest h _ := by simp [Lzc.getMap, Lzc.cleared, tabGet_ofFn, h.isLt]
  next p := by
    have hp : p.toNat < 4096 := p.isLt
    rw [if_neg (by omega)]
    simp [Lzc.getNext, Lzc.cleared, tabGet_ofFn, hp]
  prev p := by
    have hp : p.toNat < 4096 := p.isLt
    rw [if_neg (by omega)]
    simp [Lzc.getPrev, Lzc.cleared, tabGet_ofFn, hp]
  cursor := rfl

/-- One insert gets the construction one position further down. -/
theorem Lzc.BuiltDownTo.insert {l : Lzc} {n : Nat} (hl : l.BuiltDownTo (n + 1)) (hn : n < 4096) :
    (l.insert (BitVec.ofNat 12 n)).BuiltDownTo n := by
  obtain ⟨htext, hzero, hrest, hnext, hprev, hcursor⟩ := hl
  have htoNat : (BitVec.ofNat 12 n).toNat = n := by
    rw [BitVec.toNat_ofNat]
    omega
  have hkey : l.key (BitVec.ofNat 12 n) = 0#16 := by simp [Lzc.key, htext, keyOf]
  have heq (p : Pos) : p = BitVec.ofNat 12 n ↔ p.toNat = n := by rw [← BitVec.toNat_inj, htoNat]
  have hnone : l.getNext (BitVec.ofNat 12 n) = none := by rw [hnext, if_neg (by omega)]
  have hnone' : l.getPrev (BitVec.ofNat 12 n) = none := by rw [hprev, if_neg (by omega)]
  constructor
  case text => exact fun i => by rw [Lzc.getText_insert, htext]
  case mapZero => rw [Lzc.getMap_insert, hkey, if_pos rfl, if_pos hn]
  case mapRest => exact fun h hh => by rw [Lzc.getMap_insert, hkey, if_neg hh, hrest h hh]
  case next =>
    intro p
    have hp : p.toNat < 4096 := p.isLt
    rw [Lzc.getNext_insert hnone, hkey, hzero, hnext]
    simp only [heq]
    by_cases hpn : p.toNat = n
    · have hsucc : BitVec.ofNat 12 (n + 1) = p + 1#12 := by bv_omega
      rw [if_pos hpn, hsucc]
      exact if_congr (by omega) rfl rfl
    · rw [if_neg hpn]
      exact if_congr (by omega) rfl rfl
  case prev =>
    intro p
    have hp : p.toNat < 4096 := p.isLt
    rw [Lzc.getPrev_insert hnone', hkey, hzero, hprev]
    simp only [heq]
    by_cases hpn : p.toNat = n
    · rw [if_pos hpn, if_neg (by omega)]
    · rw [if_neg hpn]
      by_cases hps : p.toNat = n + 1
      · have hp' : p = BitVec.ofNat 12 (n + 1) := by bv_omega
        have hpred : BitVec.ofNat 12 n = p - 1#12 := by bv_omega
        rw [if_pos (show n + 1 < 4096 by omega), ← hp', if_pos rfl, if_pos (by omega), hpred]
      · have hold : ¬(if n + 1 < 4096 then some (BitVec.ofNat 12 (n + 1)) else none) = some p := by
          split
          · simp only [Option.some.injEq]
            bv_omega
          · simp
        rw [if_neg hold]
        exact if_congr (by omega) rfl rfl
  case cursor => rw [Lzc.cs_insert, hcursor]

/-- The inserts for the positions below `n` complete the construction. -/
theorem Lzc.BuiltDownTo.insertDown {l : Lzc} {n : Nat} (hl : l.BuiltDownTo n) (hn : n ≤ 4096) :
    (Lzc.insertDown n l).BuiltDownTo 0 := by
  induction n generalizing l with
  | zero => exact hl
  | succ n ih => exact ih (hl.insert (by omega)) (by omega)

/-- With every position inserted the dictionary is that of R39. -/
theorem Lzc.BuiltDownTo.holdsReset {l : Lzc} (hl : l.BuiltDownTo 0) : l.HoldsReset where
  text i _ := hl.text i
  mapZero := hl.mapZero
  mapRest := hl.mapRest
  nextBelow p hp := by rw [hl.next, if_pos ⟨Nat.zero_le _, hp⟩]
  nextLast := hl.next _
  prevFirst := hl.prev _
  prevRest p hp := by rw [hl.prev, if_pos (Nat.pos_of_ne_zero fun h0 => hp (BitVec.eq_of_toNat_eq h0))]
  cursor := hl.cursor

/-- Settles O24: from cleared arrays, one insert a position. -/
theorem insertsBuildResetDictionary : Obligations.InsertsBuildResetDictionary :=
  (Lzc.cleared_builtDownTo.insertDown le_rfl).holdsReset

/-! ## What the moves of a running command keep -/

/-- What every move of the running command keeps, the loop keeps. -/
theorem movesOf_keeps_of_phase {P : State → Prop} {p : Phase} {micro : State → State}
    (hmicro : ∀ s, s.phase = p → P s → P (micro s)) (fuel : Nat) (s : State) (h : P s) :
    P (movesOf p micro fuel s) := by
  induction fuel generalizing s with
  | zero => exact h
  | succ fuel ih =>
    rw [movesOf]
    split
    · next hp => exact ih _ (hmicro s hp h)
    · exact h

theorem Cause.code_ne_zero (c : Cause) : c.code ≠ 0#8 := c.code_range.1

/-! ## The frame of `LZ.DECOMP` (spec/60_exceptions.md R256 (b)) -/

/-- From the first state to the second only `ERR`, `ERR_INFO`, the ring and its cursor, `OBUF`, `OUT_LEN` and the
model's own transient values and draws have changed. -/
structure LzFrame (s t : State) : Prop extends State.SameDicts s t where
  /-- the registers but `OUT_LEN` -/
  x : t.x = { s.x with outLen := t.x.outLen }
  /-- `IBUF` -/
  ibuf : t.ibuf = s.ibuf
  /-- `POOL` -/
  pool : t.pool = s.pool
  /-- `PIX` -/
  pix : t.pix = s.pix
  /-- the configuration -/
  cfg : t.cfg = s.cfg
  /-- what is pending -/
  events : t.events = s.events
  /-- what the last host read returned -/
  bus : t.bus = s.bus

theorem LzFrame.refl (s : State) : LzFrame s s := ⟨.refl s, rfl, rfl, rfl, rfl, rfl, rfl, rfl⟩

theorem LzFrame.trans {s t u : State} (h : LzFrame s t) (h' : LzFrame t u) : LzFrame s u where
  toSameDicts := h.toSameDicts.trans h'.toSameDicts
  x := by rw [h'.x, h.x]
  ibuf := h'.ibuf.trans h.ibuf
  pool := h'.pool.trans h.pool
  pix := h'.pix.trans h.pix
  cfg := h'.cfg.trans h.cfg
  events := h'.events.trans h.events
  bus := h'.bus.trans h.bus

/-- The frame as one equation: `t` is `s` with the other fields replaced. -/
theorem LzFrame.eq {s t : State} (h : LzFrame s t) :
    t = ((((((((s.setErr t.err).setErrInfo t.errInfo).setLzd t.lzd).setObuf t.obuf).setOutLen
      t.x.outLen).setPhase t.phase).setLz t.lz).setGr t.gr).setDraws t.draws := by
  obtain ⟨⟨hlzc, hsnap, hvalid⟩, hx, hibuf, hpool, hpix, hcfg, hevents, hbus⟩ := h
  cases t
  simp only at hlzc hsnap hvalid hx hibuf hpool hpix hcfg hevents hbus
  subst hlzc hsnap hvalid hibuf hpool hpix hcfg hevents hbus
  simp only [State.setErr, State.setErrInfo, State.setLzd, State.setObuf, State.setOutLen, State.setX, State.setPhase,
    State.setLz, State.setGr, State.setDraws, State.mk.injEq, and_true]
  exact hx

theorem lzAbort_lzFrame (c : Cause) (info : Nat) (s : State) : LzFrame s (lzAbort c info s) where
  toSameDicts := lzAbort_sameDicts c info s
  x := by rw [lzAbort, raise_x, lzUnspecify_x, endCommand_x]
  ibuf := lzAbort_ibuf c info s
  pool := lzAbort_pool c info s
  pix := lzAbort_pix c info s
  cfg := lzAbort_cfg c info s
  events := lzAbort_events c info s
  bus := lzAbort_bus c info s

theorem lzFinish_lzFrame (s : State) : LzFrame s (lzFinish s) :=
  ⟨⟨rfl, rfl, rfl⟩, rfl, rfl, rfl, rfl, rfl, rfl, rfl⟩

theorem lzMicro_frame (s : State) : LzFrame s (lzMicro s) := by
  rcases lzMicro_cases s with h | ⟨c, info, h⟩ | ⟨d, m, l, h, -⟩ <;> rw [h]
  · exact lzFinish_lzFrame s
  · exact lzAbort_lzFrame c info s
  · exact ⟨⟨rfl, rfl, rfl⟩, rfl, rfl, rfl, rfl, rfl, rfl, rfl⟩

theorem lzBegin_lzFrame (s : State) : LzFrame s (lzBegin s) :=
  ⟨⟨rfl, rfl, rfl⟩, rfl, rfl, rfl, rfl, rfl, rfl, rfl⟩

theorem raise_lzFrame (c : Cause) (info : Nat) (s : State) : LzFrame s (raise c info s) :=
  ⟨⟨by simp, by simp, by simp⟩, by simp, by simp, by simp, by simp, by simp, by simp, by simp⟩

/-- `n` is within `OBUF`'s capacity, and from index `n` on `OBUF` reads as in the first state. -/
def KeepsObufFrom (s t : State) (n : Nat) : Prop :=
  n ≤ s.cfg.obufCap ∧ ∀ a : Nat, n ≤ a → t.readByte .obuf a = s.readByte .obuf a

theorem KeepsObufFrom.trans {s t u : State} {n k : Nat} (h : KeepsObufFrom s t n) (h' : KeepsObufFrom t u k)
    (hcfg : t.cfg = s.cfg) (hnk : n ≤ k) : KeepsObufFrom s u k :=
  ⟨hcfg ▸ h'.1, fun a ha => (h'.2 a ha).trans (h.2 a (hnk.trans ha))⟩

/-- An item ends the command with a fault, or writes `OBUF` only between the output cursor from before it and the one
after it. -/
def TokenOutcome (s t : State) : Prop :=
  (∃ (c : Cause) (info : Nat), t = lzAbort c info s) ∨
    t.phase = s.phase ∧ s.lz.op ≤ t.lz.op ∧ KeepsObufFrom s t t.lz.op

theorem litItem_outcome (c : Byte) (s : State) : TokenOutcome s (litItem c s) := by
  unfold litItem
  split
  · exact .inl ⟨_, _, rfl⟩
  next hfit =>
    have hop : (((s.useControlBit).skipInput 1).emit c).lz.op = s.lz.op + 1 := by
      rw [State.lz_emit]
      rfl
    refine .inr ⟨by rw [State.phase_emit]; rfl, by omega, by omega, fun a ha => ?_⟩
    have hne : a ≠ s.lz.op := by omega
    rw [State.readByte_emit, if_neg fun h => hne h.2]
    rfl

theorem matchItem_outcome (bytes len : Nat) (p : Pos) (s : State) : TokenOutcome s (matchItem bytes len p s) := by
  unfold matchItem
  split
  · exact .inl ⟨_, _, rfl⟩
  next hfit =>
    obtain ⟨m, hm⟩ := copyMatch_frame len p ((s.useControlBit).skipInput bytes)
    have hop : (copyMatch len p ((s.useControlBit).skipInput bytes)).lz.op = s.lz.op + len := by
      rw [copyMatch_lz]
      rfl
    have hphase : (copyMatch len p ((s.useControlBit).skipInput bytes)).phase = s.phase := by
      rw [hm, State.phase_setLz, State.phase_setObuf, State.phase_setLzd]
      rfl
    refine .inr ⟨hphase, by omega, by omega, fun a ha => ?_⟩
    have hout : ¬(s.lz.op ≤ a ∧ a - s.lz.op < len) := by omega
    exact (readByte_copyMatch len p _ a).trans (dif_neg hout)

theorem runToken_outcome (t : LzToken) {s : State} (hop : s.lz.op ≤ s.cfg.obufCap) :
    TokenOutcome s (runToken t s) := by
  cases t with
  | ctrl f =>
    simp only [runToken, ctrlItem]
    split
    · exact .inl ⟨_, _, rfl⟩
    · exact .inr ⟨rfl, le_rfl, hop, fun _ _ => rfl⟩
  | lit c => exact litItem_outcome c s
  | short p lc => exact matchItem_outcome 2 (shortLen lc) p s
  | long p e => exact matchItem_outcome 3 (longLen e) p s

/-- How a running or ended `LZ.DECOMP` that began in state `s` stands: it has changed nothing outside its frame, and
`OBUF` only below the output cursor; after an end without a fault, below `OUT_LEN`. -/
structure LzProgress (s t : State) : Prop where
  /-- the frame -/
  frame : LzFrame s t
  /-- while it runs -/
  running : t.phase = .lzDecomp → KeepsObufFrom s t t.lz.op
  /-- after its end -/
  ended : t.phase = .idle → t.err = 0#8 → KeepsObufFrom s t t.x.outLen.toNat

theorem lzAbort_progress {s t : State} (h : LzFrame s t) (c : Cause) (info : Nat) :
    LzProgress s (lzAbort c info t) where
  frame := h.trans (lzAbort_lzFrame c info t)
  running hp := by
    rw [lzAbort_phase] at hp
    cases hp
  ended _ he := by
    rw [lzAbort_err] at he
    exact absurd he c.code_ne_zero

theorem lzMicro_progress {s t : State} (hvalid : s.cfg.Valid) (hp : t.phase = .lzDecomp) (h : LzProgress s t) :
    LzProgress s (lzMicro t) := by
  have hframe := h.frame.trans (lzMicro_frame t)
  have hcfg := h.frame.cfg
  obtain ⟨hop, hbytes⟩ := h.running hp
  unfold lzMicro at hframe ⊢
  cases hf : lzFetch t with
  | done =>
    have hlt : t.lz.op < 2 ^ 32 := by
      obtain ⟨-, -, -, hobuf, -⟩ := hvalid
      omega
    have hlen : (lzFinish t).x.outLen.toNat = t.lz.op := (BitVec.toNat_ofNat _ _).trans (Nat.mod_eq_of_lt hlt)
    exact ⟨h.frame.trans (lzFinish_lzFrame t), fun hp' => (by cases hp'), fun _ _ => hlen.symm ▸ ⟨hop, hbytes⟩⟩
  | raise c info => exact lzAbort_progress h.frame c info
  | token k =>
    simp only [hf] at hframe ⊢
    rcases runToken_outcome k (hcfg ▸ hop) with ⟨c, info, heq⟩ | ⟨hphase, hle, hnew⟩
    · rw [heq]
      exact lzAbort_progress h.frame c info
    · refine ⟨hframe, fun _ => KeepsObufFrom.trans ⟨hop, hbytes⟩ hnew hcfg hle, fun hidle => ?_⟩
      rw [hphase, hp] at hidle
      cases hidle

/-- `LZ.DECOMP` past its check, from its beginning to its end. -/
theorem lzDecomp_progress {s : State} (hvalid : s.cfg.Valid) : LzProgress s (lzDecomp s) := by
  rw [lzDecomp, lzRun_eq_movesOf]
  refine movesOf_keeps_of_phase (P := LzProgress s) (fun t hp ht => lzMicro_progress hvalid hp ht) _ _ ?_
  exact ⟨lzBegin_lzFrame s, fun _ => ⟨Nat.zero_le _, fun _ _ => rfl⟩, fun hp => by cases hp⟩

theorem lzDecomp_frame (s : State) : LzFrame s (lzDecomp s) :=
  lzDecomp_keeps (fun t ht => ht.trans (lzMicro_frame t)) (lzBegin_lzFrame s)

/-- Settles O44: the frame holds through every move; without a fault `OBUF` is written below `OUT_LEN` only. -/
theorem lzDecompFrame : Obligations.LzDecompFrame := by
  intro s t h
  obtain rfl : whenReady (checked decompChecks lzDecomp) s = t := by
    cases h
    rfl
  refine ⟨LzFrame.eq ?_, fun herr herr' hvalid => ?_⟩
  · exact whenReady_cases (LzFrame s) _ s (.refl s) fun _ =>
      checked_cases (LzFrame s) _ _ s (fun _ _ => raise_lzFrame _ _ s) fun _ => lzDecomp_frame s
  · rw [whenReady_ready _ s herr] at herr' ⊢
    refine checked_cases (fun u => u.err = 0#8 → KeepsObufFrom s u u.x.outLen.toNat) _ _ s
      (fun _ _ he => absurd he (Cause.code_ne_zero .badOperand)) (fun _ he => ?_) herr'
    exact (lzDecomp_progress hvalid).ended (lzDecomp_spec herr).1.1 he

/-! ## The frame of `GR.DEC` (spec/60_exceptions.md R256 (c)) -/

/-- From the first state to the second only `ERR`, `ERR_INFO`, `PIX` and the model's own transient values and draws
have changed. -/
structure GrFrame (s t : State) : Prop extends State.SameDicts s t where
  /-- the registers -/
  x : t.x = s.x
  /-- the ring and its cursor -/
  lzd : t.lzd = s.lzd
  /-- `IBUF` -/
  ibuf : t.ibuf = s.ibuf
  /-- `OBUF` -/
  obuf : t.obuf = s.obuf
  /-- `POOL` -/
  pool : t.pool = s.pool
  /-- the configuration -/
  cfg : t.cfg = s.cfg
  /-- what is pending -/
  events : t.events = s.events
  /-- what the last host read returned -/
  bus : t.bus = s.bus

theorem GrFrame.refl (s : State) : GrFrame s s := ⟨.refl s, rfl, rfl, rfl, rfl, rfl, rfl, rfl, rfl⟩

theorem GrFrame.trans {s t u : State} (h : GrFrame s t) (h' : GrFrame t u) : GrFrame s u where
  toSameDicts := h.toSameDicts.trans h'.toSameDicts
  x := h'.x.trans h.x
  lzd := h'.lzd.trans h.lzd
  ibuf := h'.ibuf.trans h.ibuf
  obuf := h'.obuf.trans h.obuf
  pool := h'.pool.trans h.pool
  cfg := h'.cfg.trans h.cfg
  events := h'.events.trans h.events
  bus := h'.bus.trans h.bus

/-- The frame as one equation: `t` is `s` with the other fields replaced. -/
theorem GrFrame.eq {s t : State} (h : GrFrame s t) :
    t = ((((((s.setErr t.err).setErrInfo t.errInfo).setPix t.pix).setPhase t.phase).setLz t.lz).setGr
      t.gr).setDraws t.draws := by
  obtain ⟨⟨hlzc, hsnap, hvalid⟩, hx, hlzd, hibuf, hobuf, hpool, hcfg, hevents, hbus⟩ := h
  cases t
  simp only at hlzc hsnap hvalid hx hlzd hibuf hobuf hpool hcfg hevents hbus
  subst hlzc hsnap hvalid hx hlzd hibuf hobuf hpool hcfg hevents hbus
  rfl

theorem raise_grFrame (c : Cause) (info : Nat) (s : State) : GrFrame s (raise c info s) :=
  ⟨⟨by simp, by simp, by simp⟩, by simp, by simp, by simp, by simp, by simp, by simp, by simp, by simp⟩

theorem endCommand_grFrame (s : State) : GrFrame s (endCommand s) :=
  ⟨⟨rfl, rfl, rfl⟩, rfl, rfl, rfl, rfl, rfl, rfl, rfl, rfl⟩

theorem grBegin_grFrame (b : Byte) (s : State) : GrFrame s (grBegin b s) :=
  ⟨⟨rfl, rfl, rfl⟩, rfl, rfl, rfl, rfl, rfl, rfl, rfl, rfl⟩

theorem grAbort_grFrame (c : Cause) (info : Nat) (s : State) : GrFrame s (grAbort c info s) := by
  obtain ⟨m, hm⟩ := grAbort_frame c info s
  have hpix : GrFrame (endCommand s) ((endCommand s).setPix m) :=
    ⟨⟨rfl, rfl, rfl⟩, rfl, rfl, rfl, rfl, rfl, rfl, rfl, rfl⟩
  have hdraws (t : State) : GrFrame t (t.setDraws (s.draws + 1)) :=
    ⟨⟨rfl, rfl, rfl⟩, rfl, rfl, rfl, rfl, rfl, rfl, rfl, rfl⟩
  rw [hm]
  exact (((endCommand_grFrame s).trans hpix).trans (hdraws _)).trans (raise_grFrame c info _)

theorem grMicro_frame (s : State) : GrFrame s (grMicro s) := by
  rcases grMicro_cases s with h | ⟨c, info, h⟩ | ⟨m, g, h, -⟩ <;> rw [h]
  · exact endCommand_grFrame s
  · exact grAbort_grFrame c info s
  · exact ⟨⟨rfl, rfl, rfl⟩, rfl, rfl, rfl, rfl, rfl, rfl, rfl, rfl⟩

/-- Every byte of `PIX` outside the target lanes reads as before. -/
def KeepsNonTargets (s t : State) : Prop := ∀ a : Nat, ¬s.targets a → t.readByte .pix a = s.readByte .pix a

/-- The target lanes are named by the operands alone. -/
theorem State.targets_congr {s t : State} (hx : t.x = s.x) (a : Nat) : t.targets a ↔ s.targets a := by
  simp only [State.targets, State.pixBase, State.pixCount, hx]

theorem KeepsNonTargets.refl (s : State) : KeepsNonTargets s s := fun _ _ => rfl

theorem KeepsNonTargets.trans {s t u : State} (h : KeepsNonTargets s t) (h' : KeepsNonTargets t u) (hx : t.x = s.x) :
    KeepsNonTargets s u :=
  fun a ha => (h' a fun ht => ha ((State.targets_congr hx a).mp ht)).trans (h a ha)

/-- A pixel among the words wanted is written in its target lanes only (R200). -/
theorem putPix_keepsNonTargets {s : State} {i : Nat} (e : Byte) (hlo : s.pixBase ≤ i)
    (hhi : i < s.pixBase + s.pixCount) (hchan : s.x.chan.toNat ≤ 3) : KeepsNonTargets s (putPix i e s) := by
  intro a ha
  unfold State.targets at ha
  unfold putPix
  split
  · next hfirst =>
    have hout : ¬(4 * s.pixBase ≤ a ∧ a < 4 * (s.pixBase + s.pixCount)) := fun h => ha ⟨h.1, h.2, .inl hfirst⟩
    simp only [State.writePixWord, State.writePixLane, State.readByte_writeByte]
    rw [if_neg (by omega), if_neg (by omega), if_neg (by omega), if_neg (by omega)]
  · have hout : ¬(4 * s.pixBase ≤ a ∧ a < 4 * (s.pixBase + s.pixCount) ∧ a % 4 = s.x.chan.toNat) :=
      fun h => ha ⟨h.1, h.2.1, .inr h.2.2⟩
    rw [State.writePixLane, State.readByte_writeByte, if_neg (by omega)]

theorem putPix_x (i : Nat) (e : Byte) (s : State) : (putPix i e s).x = s.x := by
  obtain ⟨m, hm⟩ := putPix_frame i e s
  rw [hm, State.x_setPix]

theorem putZeros_x (n i : Nat) (s : State) : (putZeros n i s).x = s.x := by
  obtain ⟨m, hm⟩ := putZeros_frame n i s
  rw [hm, State.x_setPix]

theorem putZeros_keepsNonTargets {s : State} (n i : Nat) (hlo : s.pixBase ≤ i)
    (hhi : i + n ≤ s.pixBase + s.pixCount) (hchan : s.x.chan.toNat ≤ 3) : KeepsNonTargets s (putZeros n i s) := by
  induction n generalizing i s with
  | zero => exact .refl s
  | succ n ih =>
    have hx := putPix_x i 0#8 s
    refine (putPix_keepsNonTargets 0#8 hlo (by omega) hchan).trans (ih (i + 1) ?_ ?_ ?_) hx
    all_goals
      simp only [State.pixBase, State.pixCount, hx] at hlo hhi ⊢
      omega

/-- Of `PIX` a data fault makes only the target lanes unspecified (R256 (c)). -/
theorem grAbort_keepsNonTargets (c : Cause) (info : Nat) {s : State} (hchan : s.x.chan.toNat ≤ 3) :
    KeepsNonTargets s (grAbort c info s) := by
  intro a ha
  have hread : (grAbort c info s).readByte .pix a = (forgetWords s.draws (s.x.first == 1#32) s.x.chan.toNat
    s.pixCount s.pixBase (endCommand s)).readByte .pix a := rfl
  rw [hread]
  by_cases hin : 4 * s.pixBase ≤ a ∧ a < 4 * (s.pixBase + s.pixCount)
  · obtain ⟨hfirst, hlane⟩ := not_or.mp fun h => ha ⟨hin.1, hin.2, h⟩
    rw [beq_false_of_ne hfirst, readByte_forgetWords_lane _ _ _ _ _ _ (by omega) hlane]
    rfl
  · rw [readByte_forgetWords_outside _ _ _ _ _ _ _ (by omega) (by omega)]
    rfl

/-- A running `GR.DEC` stands among the words wanted, with a run that fits. -/
structure State.GrPlaced (s : State) : Prop where
  /-- the lane is one of four -/
  chan : s.x.chan.toNat ≤ 3
  /-- not before the first word -/
  base : s.pixBase ≤ s.gr.i
  /-- the words wanted -/
  lim : s.gr.lim = s.pixBase + s.pixCount
  /-- the run going on fits -/
  fits : s.gr.Fits

/-- Where only `PIX` and the decoder's place have changed, and the place is still good, the decoder is placed. -/
theorem State.GrPlaced.of_place {s t : State} (hs : s.GrPlaced) (hx : t.x = s.x) (hi : s.gr.i ≤ t.gr.i)
    (hlim : t.gr.lim = s.gr.lim) (hfits : t.gr.Fits) : t.GrPlaced := by
  obtain ⟨hchan, hbase, hs, -⟩ := hs
  simp only [State.pixBase, State.pixCount] at hbase hs
  refine ⟨by rwa [hx], ?_, ?_, hfits⟩
  · simp only [State.pixBase, hx]
    omega
  · simp only [State.pixBase, State.pixCount, hx]
    omega

/-- A code ends the command with a fault, or writes target lanes and gets on among the words wanted. -/
def CodeOutcome (s t : State) : Prop :=
  (∃ (c : Cause) (info : Nat), t = grAbort c info s) ∨ KeepsNonTargets s t ∧ t.GrPlaced

theorem gammaCode_outcome (z k : Nat) {s : State} (hs : s.GrPlaced) (hrun : s.gr.run = 0) :
    CodeOutcome s (gammaCode z k s) := by
  unfold gammaCode
  split
  · exact .inl ⟨_, _, rfl⟩
  next hfit =>
    obtain ⟨-, hroom⟩ := not_or.mp hfit
    split
    · refine .inr ⟨putZeros_keepsNonTargets (2 ^ z + k) s.gr.i hs.base (by have := hs.lim; omega) hs.chan, ?_⟩
      refine hs.of_place (putZeros_x _ _ s) (by simp) rfl ?_
      simp only [State.gr_setGr, GrCursor.Fits, hrun]
      omega
    · refine .inr ⟨.refl s, hs.of_place rfl le_rfl rfl ?_⟩
      simp only [State.gr_setGr, GrCursor.Fits]
      omega

theorem takeResidual_outcome (v : Nat) (c : BitCursor) {s : State} (hs : s.GrPlaced) (hrun : s.gr.run ≠ 0) :
    CodeOutcome s (takeResidual v c s) := by
  have hfits : s.gr.i + s.gr.run ≤ s.gr.lim := hs.fits
  have hlim := hs.lim
  obtain ⟨hai, hal, har⟩ := s.gr.adapt_place v
  obtain ⟨hci, hcl, hcr⟩ := (s.gr.adapt v).countOne_place
  refine .inr ⟨putPix_keepsNonTargets _ hs.base (by omega) hs.chan, hs.of_place (putPix_x _ _ s) ?_ ?_ ?_⟩ <;>
    simp only [takeResidual, State.gr_setGr, GrCursor.Fits, hci, hcl, hcr, hai, hal, har]
  all_goals omega

theorem runCode_outcome (c : GrCode) {s : State} (hs : s.GrPlaced) (hc : isRunLength c = true ↔ s.gr.run = 0) :
    CodeOutcome s (runCode c s) := by
  cases c with
  | gamma z k => exact gammaCode_outcome z k hs (hc.mp rfl)
  | golomb q r =>
    simp only [runCode, golombCode]
    split
    · exact .inl ⟨_, _, rfl⟩
    · exact takeResidual_outcome _ _ hs fun h => by cases hc.mpr h
  | golombx q r =>
    simp only [runCode, golombxCode]
    split
    · exact .inl ⟨_, _, rfl⟩
    · exact takeResidual_outcome _ _ hs fun h => by cases hc.mpr h

/-- How a running or ended `GR.DEC` that began in state `s` stands: it has changed nothing outside its frame, and of
`PIX` only target lanes; while it runs it is placed among them. -/
structure GrProgress (s t : State) : Prop where
  /-- the frame -/
  frame : GrFrame s t
  /-- the other lanes -/
  keeps : KeepsNonTargets s t
  /-- while it runs -/
  running : t.phase = .grDec → t.GrPlaced

theorem grAbort_progress {s t : State} (h : GrProgress s t) (hchan : s.x.chan.toNat ≤ 3) (c : Cause) (info : Nat) :
    GrProgress s (grAbort c info t) where
  frame := h.frame.trans (grAbort_grFrame c info t)
  keeps := h.keeps.trans (grAbort_keepsNonTargets c info (by rwa [h.frame.x])) h.frame.x
  running hp := by
    rw [(grAbort_idle c info t).1] at hp
    cases hp

theorem grMicro_progress {s t : State} (hp : t.phase = .grDec) (h : GrProgress s t) : GrProgress s (grMicro t) := by
  have hframe := h.frame.trans (grMicro_frame t)
  have hplaced := h.running hp
  have hchan : s.x.chan.toNat ≤ 3 := h.frame.x ▸ hplaced.chan
  unfold grMicro at hframe ⊢
  cases hf : grFetch t with
  | done => exact ⟨h.frame.trans (endCommand_grFrame t), h.keeps, fun hp' => by cases hp'⟩
  | raise c info => exact grAbort_progress h hchan c info
  | code k =>
    simp only [hf] at hframe ⊢
    rcases runCode_outcome k hplaced (isRunLength_of_grFetch hf) with ⟨c, info, heq⟩ | ⟨hkeeps, hplaced'⟩
    · rw [heq]
      exact grAbort_progress h hchan c info
    · exact ⟨hframe, h.keeps.trans hkeeps h.frame.x, fun _ => hplaced'⟩

/-- `GR.DEC` past its checks, from its beginning to its end. -/
theorem grDec_progress {s : State} (hchan : s.x.chan.toNat ≤ 3) :
    GrFrame s (grDec s) ∧ KeepsNonTargets s (grDec s) := by
  unfold grDec
  split
  · exact ⟨.refl s, .refl s⟩
  · split
    · exact ⟨grAbort_grFrame _ _ s, grAbort_keepsNonTargets _ _ hchan⟩
    · next b hb =>
      have hbegin : GrProgress s (grBegin b s) :=
        ⟨grBegin_grFrame b s, .refl s, fun _ => ⟨hchan, le_rfl, rfl, Nat.le_add_right _ _⟩⟩
      rw [grRun_eq_movesOf]
      have hend := movesOf_keeps_of_phase (P := GrProgress s) (fun t hp ht => grMicro_progress hp ht)
        (2 * s.pixCount + 1) _ hbegin
      exact ⟨hend.frame, hend.keeps⟩

/-- The checks of `GR.DEC` pass only with a lane below 4 (R254, check 2). -/
theorem chan_of_grChecks {s : State} (h : firstFailing (grChecks s) = none) : s.x.chan.toNat ≤ 3 := by
  by_contra hchan
  rw [grChecks, firstFailing, if_pos (by simpa using hchan)] at h
  cases h

/-- Settles O49: the frame and the other lanes of `PIX` are kept through every move and every fault. -/
theorem grDecFrame : Obligations.GrDecFrame := by
  intro s t h
  obtain rfl : whenReady (checked grChecks grDec) s = t := by
    cases h
    rfl
  have hboth : GrFrame s (whenReady (checked grChecks grDec) s) ∧
      KeepsNonTargets s (whenReady (checked grChecks grDec) s) := by
    refine whenReady_cases (fun t => GrFrame s t ∧ KeepsNonTargets s t) _ s ⟨.refl s, .refl s⟩ fun _ => ?_
    exact checked_cases (fun t => GrFrame s t ∧ KeepsNonTargets s t) _ _ s
      (fun k _ => ⟨raise_grFrame _ k s, fun _ _ => rfl⟩) fun hchecks => grDec_progress (chan_of_grChecks hchecks)
  exact ⟨hboth.1.eq, hboth.2⟩

end Sys2Proof.Machine
end

section
/-! PROOFS. The bit pool (spec/43_golomb.md R193 to R201): what a window and the loop over zero bits read, which of its
outcomes reading a code has, and what the data faults of `GR.DEC` leave. Settles O3, O4, O47. -/

namespace Sys2Proof.Machine

/-! ## Cursors -/

theorem advance_zero {c : BitCursor} (hbit : c.bit < 8) : c.advance 0 = c := by
  obtain ⟨bp, bit⟩ := c
  simp only [BitCursor.advance, BitCursor.mk.injEq] at hbit ⊢
  omega

theorem advance_advance (c : BitCursor) (m n : Nat) : (c.advance m).advance n = c.advance (m + n) := by
  simp only [BitCursor.advance, BitCursor.mk.injEq]
  omega

theorem advance_bit_lt (c : BitCursor) (n : Nat) : (c.advance n).bit < 8 := Nat.mod_lt _ (by decide)

/-- The bits from a moved cursor on. -/
theorem cursorBit_advance (pool : Nat → Byte) (c : BitCursor) (n j : Nat) :
    cursorBit pool (c.advance n) j = cursorBit pool c (n + j) := by
  simp only [cursorBit, BitCursor.advance]
  exact congrArg (streamBit pool) (by omega)

/-- A cursor moves on in bytes as it moves on in bits. -/
theorem advance_bp_mono (c : BitCursor) {m n : Nat} (h : m ≤ n) : (c.advance m).bp ≤ (c.advance n).bp := by
  simp only [BitCursor.advance]
  omega

/-! ## The window (R193) -/

/-- The window at a cursor, whether or not the pool reaches so far. -/
def windowWord (pool : Nat → Byte) (c : BitCursor) : Word :=
  (pool (c.bp + 3) ++ pool (c.bp + 2) ++ pool (c.bp + 1) ++ pool c.bp) >>> c.bit

theorem window_of_fits {pool : Nat → Byte} {len : Nat} {c : BitCursor} (h : c.bp + 4 ≤ len) :
    window pool len c = .ok (windowWord pool c) := by
  rw [window, fetch32, if_neg (by omega), windowWord]

theorem window_of_misses {pool : Nat → Byte} {len : Nat} {c : BitCursor} (h : len < c.bp + 4) :
    window pool len c = .reject (.poolRange c.bp) := by
  rw [window, fetch32, if_pos h]

/-- A byte of four packed ones is the byte of the stream that its bit is in. -/
theorem getLsbD_fourBytes (pool : Nat → Byte) (bp j : Nat) (hj : j < 32) :
    (pool (bp + 3) ++ pool (bp + 2) ++ pool (bp + 1) ++ pool bp : Word).getLsbD j = streamBit pool (8 * bp + j) := by
  have hpack := getLsbD_pack (pool bp) (pool (bp + 1)) (pool (bp + 2)) (pool (bp + 3)) j
  rw [pack] at hpack
  rw [hpack, streamBit]
  have hbyte (i k : Nat) (hi : (8 * bp + j) / 8 = i) (hk : (8 * bp + j) % 8 = k) :
      (pool i).getLsbD k = (pool ((8 * bp + j) / 8)).getLsbD ((8 * bp + j) % 8) := by rw [hi, hk]
  split_ifs <;> exact hbyte _ _ (by omega) (by omega)

/-- The window holds the bits from the cursor on, as far as its four bytes go, and zeros above. -/
theorem getLsbD_windowWord (pool : Nat → Byte) (c : BitCursor) (j : Nat) :
    (windowWord pool c).getLsbD j = (decide (c.bit + j < 32) && cursorBit pool c j) := by
  rw [windowWord, BitVec.getLsbD_ushiftRight]
  by_cases hj : c.bit + j < 32
  · rw [getLsbD_fourBytes pool c.bp _ hj, cursorBit, Nat.add_assoc]
    simp [hj]
  · rw [BitVec.getLsbD_of_ge _ _ (by omega)]
    simp [hj]

/-- The window is all zeros exactly when the bits it holds are. -/
theorem windowWord_eq_zero_iff (pool : Nat → Byte) (c : BitCursor) :
    windowWord pool c = 0#32 ↔ ∀ j : Nat, j < 32 - c.bit → cursorBit pool c j = false := by
  constructor
  · intro h j hj
    have hbit := getLsbD_windowWord pool c j
    rw [h] at hbit
    simpa [show c.bit + j < 32 by omega] using hbit.symm
  · intro h
    refine BitVec.eq_of_getLsbD_eq fun j hj => ?_
    rw [getLsbD_windowWord]
    by_cases hin : c.bit + j < 32
    · simp [h j (by omega)]
    · simp [hin]

/-- A number of `n` bits is what stands in the stream from bit `i` of the window on, when its bits do. -/
theorem windowWord_field {pool : Nat → Byte} {c : BitCursor} {i n v : Nat} (hroom : c.bit + (i + n) ≤ 32)
    (hv : v < 2 ^ n) (hbits : ∀ j : Nat, j < n → cursorBit pool c (i + j) = v.testBit j) :
    (windowWord pool c >>> i).toNat % 2 ^ n = v := by
  refine Nat.eq_of_testBit_eq fun j => ?_
  rw [Nat.testBit_mod_two_pow, ← BitVec.getLsbD, BitVec.getLsbD_ushiftRight, getLsbD_windowWord]
  by_cases hj : j < n
  · simp [hj, show c.bit + (i + j) < 32 by omega, hbits j hj]
  · have hsmall : v < 2 ^ j := hv.trans_le (Nat.pow_le_pow_right (by decide) (by omega))
    simp [hj, Nat.testBit_lt_two_pow hsmall]

/-! ## The leading-zero table (R190) -/

/-- The place of the lowest 1 bit, or that there is none. -/
theorem firstOne_spec (fuel w : Nat) :
    (firstOne fuel w = 0 ∧ ∀ j : Nat, j < fuel → w.testBit j = false) ∨
      ∃ n < fuel, firstOne fuel w = n + 1 ∧ (∀ j : Nat, j < n → w.testBit j = false) ∧ w.testBit n = true := by
  induction fuel generalizing w with
  | zero => exact .inl ⟨rfl, fun _ hj => absurd hj (Nat.not_lt_zero _)⟩
  | succ fuel ih =>
    by_cases hlow : w % 2 = 1
    · refine .inr ⟨0, fuel.succ_pos, by rw [firstOne, if_pos hlow], fun _ hj => absurd hj (Nat.not_lt_zero _), ?_⟩
      simp [Nat.testBit_zero, hlow]
    · have hzero : w.testBit 0 = false := by simp [Nat.testBit_zero, hlow]
      have hbelow (n : Nat) (h : ∀ j : Nat, j < n → (w / 2).testBit j = false) (j : Nat) (hj : j < n + 1) :
          w.testBit j = false := by
        cases j with
        | zero => exact hzero
        | succ j => rw [Nat.testBit_succ]; exact h j (by omega)
      rw [firstOne, if_neg hlow]
      rcases ih (w / 2) with ⟨h0, hbits⟩ | ⟨n, hn, h1, hbits, hone⟩
      · exact .inl ⟨by rw [h0], hbelow fuel hbits⟩
      · exact .inr ⟨n + 1, by omega, by rw [h1], hbelow n hbits, by rwa [Nat.testBit_succ]⟩

/-- `LZT` of a window's low twelve bits, in stream bits. -/
theorem lzt_windowWord (pool : Nat → Byte) {c : BitCursor} (hbit : c.bit < 8) :
    (lzt ((windowWord pool c).extractLsb' 0 12) = 0 ∧ ∀ j : Nat, j < 12 → cursorBit pool c j = false) ∨
      ∃ n < 12, lzt ((windowWord pool c).extractLsb' 0 12) = n + 1 ∧ ZerosThenOne pool c n := by
  have hstream (j : Nat) (hj : j < 12) :
      ((windowWord pool c).extractLsb' 0 12).toNat.testBit j = cursorBit pool c j := by
    rw [← BitVec.getLsbD, BitVec.getLsbD_extractLsb', getLsbD_windowWord]
    simp [hj, show c.bit + j < 32 by omega]
  rcases firstOne_spec 12 ((windowWord pool c).extractLsb' 0 12).toNat with ⟨h0, hbits⟩ | ⟨n, hn, h1, hbits, hone⟩
  · exact .inl ⟨h0, fun j hj => hstream j hj ▸ hbits j hj⟩
  · exact .inr ⟨n, hn, h1, fun j hj => hstream j (hj.trans hn) ▸ hbits j hj, hstream n hn ▸ hone⟩

/-! ## Zeros and the 1 after them, in stream bits -/

theorem ZerosThenOne.unique {pool : Nat → Byte} {c : BitCursor} {m n : Nat} (hm : ZerosThenOne pool c m)
    (hn : ZerosThenOne pool c n) : m = n := by
  obtain ⟨hm0, hm1⟩ := hm
  obtain ⟨hn0, hn1⟩ := hn
  rcases Nat.lt_trichotomy m n with h | h | h
  · simp [hn0 m h] at hm1
  · exact h
  · simp [hm0 n h] at hn1

/-- Zeros stepped over come before those at the moved cursor. -/
theorem ZerosThenOne.of_advance {pool : Nat → Byte} {c : BitCursor} {k n : Nat}
    (hzeros : ∀ j : Nat, j < k → cursorBit pool c j = false) (h : ZerosThenOne pool (c.advance k) n) :
    ZerosThenOne pool c (k + n) := by
  obtain ⟨hn0, hn1⟩ := h
  rw [cursorBit_advance] at hn1
  refine ⟨fun j hj => ?_, hn1⟩
  by_cases hjk : j < k
  · exact hzeros j hjk
  · have := hn0 (j - k) (by omega)
    rwa [cursorBit_advance, Nat.add_sub_cancel' (by omega)] at this

section
variable {pool : Nat → Byte} {len : Nat} {c : BitCursor}

/-- Not stepping over anything, it is the first window that is not inside the pool. -/
theorem skipMisses_zero_iff (hbit : c.bit < 8) (bp : Nat) :
    SkipMisses pool len c 0 bp ↔ bp = c.bp ∧ len < bp + 4 := by
  simp [SkipMisses, advance_zero hbit]

/-- Zeros stepped over come before those stepped over from the moved cursor. -/
theorem SkipMisses.of_advance (hbit : c.bit < 8) (hfit : c.bp + 4 ≤ len)
    (hzeros : ∀ j : Nat, j < 12 → cursorBit pool c j = false) {j bp : Nat}
    (h : SkipMisses pool len (c.advance 12) j bp) : SkipMisses pool len c (j + 1) bp := by
  obtain ⟨h0, hlast, hbp, hmiss⟩ := h
  refine ⟨fun m hm => ?_, fun _ => ?_, ?_, hmiss⟩
  · by_cases hm12 : m < 12
    · exact hzeros m hm12
    · have := h0 (m - 12) (by omega)
      rwa [cursorBit_advance, Nat.add_sub_cancel' (by omega)] at this
  · cases j with
    | zero => rwa [Nat.sub_self, Nat.mul_zero, advance_zero hbit]
    | succ j =>
      have := hlast j.succ_pos
      rwa [advance_advance, show 12 + 12 * (j + 1 - 1) = 12 * (j + 1 + 1 - 1) by omega] at this
  · rwa [advance_advance, show 12 + 12 * j = 12 * (j + 1) by omega] at hbp

/-- The window before the one that is not inside the pool is inside it. -/
theorem SkipMisses.last_fits {j bp : Nat} (h : SkipMisses pool len c j bp) (hj : 0 < j) :
    (c.advance (12 * (j - 1))).bp + 4 ≤ len := by
  obtain ⟨-, hlast, -, -⟩ := h
  exact hlast hj

/-- A window inside the pool comes before the one that is not. -/
theorem SkipMisses.lt_of_fits {j bp n : Nat} (h : SkipMisses pool len c j bp)
    (hfit : (c.advance (12 * n)).bp + 4 ≤ len) : n < j := by
  obtain ⟨-, -, hbp, hmiss⟩ := h
  by_contra hjn
  have := advance_bp_mono c (show 12 * j ≤ 12 * n by omega)
  omega

/-- One window is the first not inside the pool. -/
theorem SkipMisses.bp_unique {j k bp bq : Nat} (h : SkipMisses pool len c j bp) (h' : SkipMisses pool len c k bq) :
    bp = bq := by
  have hjk : j = k := by
    by_contra hne
    rcases Nat.lt_or_gt_of_ne hne with hlt | hlt
    · have := h.lt_of_fits (h'.last_fits (by omega))
      omega
    · have := h'.lt_of_fits (h.last_fits (by omega))
      omega
  obtain ⟨-, -, rfl, -⟩ := h
  obtain ⟨-, -, rfl, -⟩ := h'
  rw [hjk]

/-- Where a window is not inside the pool, the 1 is not found inside it. -/
theorem SkipMisses.not_findsOne {j bp n : Nat} (h : SkipMisses pool len c j bp) (hn : ZerosThenOne pool c n) :
    ¬FindsOne len c n := by
  intro hfit
  have hj := h.lt_of_fits hfit
  obtain ⟨hzeros, -, -, -⟩ := h
  obtain ⟨-, hone⟩ := hn
  simp [hzeros n (by omega)] at hone

/-! ## The loop over zero bits (R194, R196) -/

theorem skipZeros_of_misses (h : len < c.bp + 4) (fuel z : Nat) :
    skipZeros pool len fuel c z = .reject (.poolRange c.bp) := by
  unfold skipZeros
  rw [window_of_misses h]

theorem skipZeros_of_one {n : Nat} (h : c.bp + 4 ≤ len)
    (hn : lzt ((windowWord pool c).extractLsb' 0 12) = n + 1) (fuel z : Nat) :
    skipZeros pool len fuel c z = .ok ⟨z + (n + 1), windowWord pool c, n + 1, c⟩ := by
  unfold skipZeros
  simp only [window_of_fits h, hn, if_neg (Nat.succ_ne_zero n)]

theorem skipZeros_of_zeros (h : c.bp + 4 ≤ len) (h0 : lzt ((windowWord pool c).extractLsb' 0 12) = 0)
    (fuel z : Nat) : skipZeros pool len (fuel + 1) c z = skipZeros pool len fuel (c.advance 12) (z + 12) := by
  rw [skipZeros]
  simp only [window_of_fits h, h0, if_pos]

/-- How the loop over zero bits ends, after `z` zeros before its cursor. -/
inductive SkipOutcome (pool : Nat → Byte) (len : Nat) (c : BitCursor) (z : Nat) : Decoded ZeroRun → Prop
  /-- at a window that is not inside the pool -/
  | misses {j bp : Nat} (h : SkipMisses pool len c j bp) : SkipOutcome pool len c z (.reject (.poolRange bp))
  /-- in the window that holds the 1 -/
  | finds {n : Nat} (hn : ZerosThenOne pool c n) (hfit : FindsOne len c n) :
    SkipOutcome pool len c z (.ok ⟨z + n + 1, windowWord pool (c.advance (12 * (n / 12))), n % 12 + 1,
      c.advance (12 * (n / 12))⟩)

/-- The bytes of the pool are fuel enough, and the loop ends in one of the two ways (assumption log 14). -/
theorem skipZeros_outcome (fuel z : Nat) (hbit : c.bit < 8) (hfuel : len ≤ fuel + c.bp) :
    SkipOutcome pool len c z (skipZeros pool len fuel c z) := by
  induction fuel generalizing c z with
  | zero =>
    rw [skipZeros_of_misses (by omega)]
    exact .misses (j := 0) ((skipMisses_zero_iff hbit _).mpr ⟨rfl, by omega⟩)
  | succ fuel ih =>
    by_cases hfit : c.bp + 4 ≤ len
    case neg =>
      rw [skipZeros_of_misses (by omega)]
      exact .misses (j := 0) ((skipMisses_zero_iff hbit _).mpr ⟨rfl, by omega⟩)
    rcases lzt_windowWord pool hbit with ⟨h0, hzeros⟩ | ⟨n, hn, h1, hone⟩
    · rw [skipZeros_of_zeros hfit h0]
      have hon := ih (c := c.advance 12) (z + 12) (advance_bit_lt c 12) (by simp only [BitCursor.advance]; omega)
      generalize skipZeros pool len fuel (c.advance 12) (z + 12) = r at hon
      cases hon with
      | misses h => exact .misses (h.of_advance hbit hfit hzeros)
      | @finds n hn hfit' =>
        have hcur : (c.advance 12).advance (12 * (n / 12)) = c.advance (12 * ((12 + n) / 12)) := by
          rw [advance_advance]
          exact congrArg c.advance (by omega)
        have hout := SkipOutcome.finds (len := len) (z := z) (hn.of_advance hzeros)
          (by rwa [FindsOne, ← hcur])
        rw [hcur]
        rwa [Nat.add_mod_left, ← Nat.add_assoc] at hout
    · have hcur : c.advance (12 * (n / 12)) = c := by
        rw [Nat.div_eq_of_lt hn]
        exact advance_zero hbit
      have hout := SkipOutcome.finds (len := len) (z := z) hone (by rwa [FindsOne, hcur])
      rw [skipZeros_of_one hfit h1]
      rwa [hcur, Nat.mod_eq_of_lt hn] at hout

/-- The first window not inside the pool comes before the 1 is found, or the 1 is found inside the pool. -/
theorem skip_cases (pool : Nat → Byte) (len : Nat) (hbit : c.bit < 8) :
    (∃ j bp : Nat, SkipMisses pool len c j bp) ∨ ∃ n : Nat, ZerosThenOne pool c n ∧ FindsOne len c n := by
  have hout := skipZeros_outcome (pool := pool) len 0 hbit (Nat.le_add_right len c.bp)
  generalize skipZeros pool len len c 0 = r at hout
  cases hout with
  | misses h => exact .inl ⟨_, _, h⟩
  | finds hone hfind => exact .inr ⟨_, hone, hfind⟩

theorem skipZeros_of_skipMisses (hbit : c.bit < 8) {j bp : Nat} (h : SkipMisses pool len c j bp) :
    skipZeros pool len len c 0 = .reject (.poolRange bp) := by
  have hout := skipZeros_outcome (pool := pool) len 0 hbit (Nat.le_add_right len c.bp)
  generalize skipZeros pool len len c 0 = r at hout
  cases hout with
  | misses h' => rw [h.bp_unique h']
  | finds hone hfind => exact absurd hfind (h.not_findsOne hone)

theorem skipZeros_of_findsOne (hbit : c.bit < 8) {n : Nat} (hone : ZerosThenOne pool c n)
    (hfind : FindsOne len c n) : skipZeros pool len len c 0 =
      .ok ⟨n + 1, windowWord pool (c.advance (12 * (n / 12))), n % 12 + 1, c.advance (12 * (n / 12))⟩ := by
  have hout := skipZeros_outcome (pool := pool) len 0 hbit (Nat.le_add_right len c.bp)
  generalize skipZeros pool len len c 0 = r at hout
  cases hout with
  | misses h => exact absurd hfind (h.not_findsOne hone)
  | finds hone' _ => rw [hone.unique hone', Nat.zero_add]

/-! ## Reading a run length (R194) -/

theorem gammaAt_of_skipMisses (hbit : c.bit < 8) {j bp : Nat} (h : SkipMisses pool len c j bp) :
    gammaAt pool len c = .reject (.poolRange bp) := by
  rw [gammaAt, skipZeros_of_skipMisses hbit h]

/-- What a run length reads as once its 1 is found: the suffix window is fetched only for a count not too long. -/
theorem gammaAt_of_findsOne (hbit : c.bit < 8) {z : Nat} (hone : ZerosThenOne pool c z) (hfind : FindsOne len c z) :
    gammaAt pool len c =
      if 25 ≤ z then .reject .countTooLong
      else if (c.advance (z + 1)).bp + 4 ≤ len then
        .ok (.gamma z ((windowWord pool (c.advance (z + 1))).toNat % 2 ^ z), c.advance (2 * z + 1))
      else .reject (.poolRange (c.advance (z + 1)).bp) := by
  have hcur : (c.advance (12 * (z / 12))).advance (z % 12 + 1) = c.advance (z + 1) := by
    rw [advance_advance]
    exact congrArg c.advance (by omega)
  rw [gammaAt, skipZeros_of_findsOne hbit hone hfind]
  simp only [hcur, Nat.add_sub_cancel]
  split_ifs with hz hfit
  · rfl
  · rw [window_of_fits hfit, advance_advance, show z + 1 + z = 2 * z + 1 by omega]
  · rw [window_of_misses (by omega)]

/-- A run length reaches past the pool at the fetch that the stream bits say (R201). -/
theorem gammaAt_poolRange_iff (hbit : c.bit < 8) (bp : Nat) :
    gammaAt pool len c = .reject (.poolRange bp) ↔ GammaMisses pool len c bp := by
  constructor
  · intro h
    rcases skip_cases pool len hbit with ⟨j, bq, hskip⟩ | ⟨z, hone, hfind⟩
    · rw [gammaAt_of_skipMisses hbit hskip] at h
      cases h
      exact .inl ⟨j, hskip⟩
    · rw [gammaAt_of_findsOne hbit hone hfind] at h
      split_ifs at h with hz hfit <;> cases h
      exact .inr ⟨z, by omega, hone, hfind, rfl, by omega⟩
  · rintro (⟨j, hskip⟩ | ⟨z, hz, hone, hfind, rfl, hmiss⟩)
    · exact gammaAt_of_skipMisses hbit hskip
    · rw [gammaAt_of_findsOne hbit hone hfind, if_neg (by omega), if_neg (by omega)]

/-- A run length is too long when 25 zeros or more stand before its 1, and the 1 is inside the pool (R194). -/
theorem gammaAt_countTooLong_iff (hbit : c.bit < 8) :
    gammaAt pool len c = .reject .countTooLong ↔
      ∃ z : Nat, 25 ≤ z ∧ ZerosThenOne pool c z ∧ FindsOne len c z := by
  constructor
  · intro h
    rcases skip_cases pool len hbit with ⟨j, bq, hskip⟩ | ⟨z, hone, hfind⟩
    · rw [gammaAt_of_skipMisses hbit hskip] at h
      cases h
    · rw [gammaAt_of_findsOne hbit hone hfind] at h
      split_ifs at h with hz hfit <;> cases h
      exact ⟨z, hz, hone, hfind⟩
  · rintro ⟨z, hz, hone, hfind⟩
    rw [gammaAt_of_findsOne hbit hone hfind, if_pos hz]

/-! ## Reading a residual (R196, R197) -/

/-- What the long form reads as after its window of zeros: the quotient byte, then the window after it. -/
theorem escapeAt_eq (pool : Nat → Byte) (len k : Nat) (c : BitCursor) :
    escapeAt pool len k c =
      if c.bp + 5 ≤ len then
        if c.bp + 9 ≤ len then .ok (.golombx (pool (c.bp + 4)) ((windowWord pool ⟨c.bp + 5, 0⟩).toNat % 2 ^ k),
          BitCursor.advance ⟨c.bp + 5, 0⟩ k)
        else .reject (.poolRange (c.bp + 5))
      else .reject (.poolRange (c.bp + 4)) := by
  by_cases hquot : c.bp + 5 ≤ len
  · rw [escapeAt, fetchByte, if_neg (by omega), if_pos hquot]
    split_ifs with hrem
    · rw [window_of_fits (c := ⟨c.bp + 5, 0⟩) hrem]
    · rw [window_of_misses (c := ⟨c.bp + 5, 0⟩) (show len < c.bp + 5 + 4 by omega)]
  · rw [escapeAt, fetchByte, if_pos (by omega), if_neg hquot]

theorem valueAt_of_misses (k : Nat) (h : len < c.bp + 4) : valueAt pool len k c = .reject (.poolRange c.bp) := by
  rw [valueAt, window_of_misses h]

theorem valueAt_of_zeros (k : Nat) (hfit : c.bp + 4 ≤ len)
    (hzeros : ∀ m : Nat, m < 32 - c.bit → cursorBit pool c m = false) :
    valueAt pool len k c = escapeAt pool len k c := by
  rw [valueAt, window_of_fits hfit]
  exact if_pos ((windowWord_eq_zero_iff pool c).mpr hzeros)

/-- A first window that is not all zeros is not that of the long form. -/
theorem windowWord_ne_zero {m : Nat} (hm : m < 32 - c.bit) (hset : cursorBit pool c m = true) :
    windowWord pool c ≠ 0#32 := fun h => by
  simp [(windowWord_eq_zero_iff pool c).mp h m hm] at hset

theorem valueAt_of_skipMisses (hbit : c.bit < 8) (k : Nat) {j m bp : Nat} (hj : 0 < j) (hm : m < 32 - c.bit)
    (hset : cursorBit pool c m = true) (h : SkipMisses pool len c j bp) :
    valueAt pool len k c = .reject (.poolRange bp) := by
  have hfit : c.bp + 4 ≤ len := by
    have hmono := advance_bp_mono c (Nat.zero_le (12 * (j - 1)))
    rw [advance_zero hbit] at hmono
    have := h.last_fits hj
    omega
  rw [valueAt, window_of_fits hfit]
  simp only [windowWord_ne_zero hm hset, if_false, skipZeros_of_skipMisses hbit h]

theorem valueAt_of_findsOne (hbit : c.bit < 8) (k : Nat) {m q : Nat} (hm : m < 32 - c.bit)
    (hset : cursorBit pool c m = true) (hone : ZerosThenOne pool c q) (hfind : FindsOne len c q) :
    valueAt pool len k c = .ok (.golomb q
      ((windowWord pool (c.advance (12 * (q / 12))) >>> (q % 12 + 1)).toNat % 2 ^ k), c.advance (q + 1 + k)) := by
  have hfit : c.bp + 4 ≤ len := by
    have hmono := advance_bp_mono c (Nat.zero_le (12 * (q / 12)))
    rw [advance_zero hbit] at hmono
    rw [FindsOne] at hfind
    omega
  have hcur : (c.advance (12 * (q / 12))).advance (q % 12 + 1 + k) = c.advance (q + 1 + k) := by
    rw [advance_advance]
    exact congrArg c.advance (by omega)
  rw [valueAt, window_of_fits hfit]
  simp only [windowWord_ne_zero hm hset, if_false, skipZeros_of_findsOne hbit hone hfind, Nat.add_sub_cancel, hcur]

/-- A residual reaches past the pool at the fetch that the stream bits say (R201). -/
theorem valueAt_poolRange_iff (hbit : c.bit < 8) (k bp : Nat) :
    valueAt pool len k c = .reject (.poolRange bp) ↔ ValueMisses pool len c bp := by
  constructor
  · intro h
    by_cases hfit : c.bp + 4 ≤ len
    case neg =>
      rw [valueAt_of_misses k (by omega)] at h
      cases h
      exact .inl ((skipMisses_zero_iff hbit _).mpr ⟨rfl, by omega⟩)
    by_cases hzeros : ∀ m : Nat, m < 32 - c.bit → cursorBit pool c m = false
    · rw [valueAt_of_zeros k hfit hzeros, escapeAt_eq] at h
      refine .inr (.inr ⟨hzeros, hfit, ?_⟩)
      split_ifs at h with hquot hrem <;> cases h
      · exact .inr ⟨rfl, hquot, by omega⟩
      · exact .inl ⟨rfl, by omega⟩
    · obtain ⟨m, hm, hset⟩ : ∃ m < 32 - c.bit, cursorBit pool c m = true := by simpa using hzeros
      rcases skip_cases pool len hbit with ⟨j, bq, hskip⟩ | ⟨q, hone, hfind⟩
      · rcases Nat.eq_zero_or_pos j with rfl | hj
        · have := (skipMisses_zero_iff hbit bq).mp hskip
          omega
        · rw [valueAt_of_skipMisses hbit k hj hm hset hskip] at h
          cases h
          exact .inr (.inl ⟨j, m, hj, hm, hset, hskip⟩)
      · rw [valueAt_of_findsOne hbit k hm hset hone hfind] at h
        cases h
  · rintro (hfirst | ⟨j, m, hj, hm, hset, hskip⟩ | ⟨hzeros, hfit, hmiss⟩)
    · obtain ⟨rfl, hmiss⟩ := (skipMisses_zero_iff hbit bp).mp hfirst
      exact valueAt_of_misses k hmiss
    · exact valueAt_of_skipMisses hbit k hj hm hset hskip
    · rw [valueAt_of_zeros k hfit hzeros, escapeAt_eq]
      rcases hmiss with ⟨rfl, hmiss⟩ | ⟨rfl, hquot, hmiss⟩
      · rw [if_neg (by omega)]
      · rw [if_pos hquot, if_neg (by omega)]

end

/-! ## Codes written in the pool (spec/30_encoding.md R103 to R105) -/

theorem length_lsbBits (n v : Nat) : (lsbBits n v).length = n := by
  induction n generalizing v with
  | zero => rfl
  | succ n ih => rw [lsbBits, List.length_cons, ih]

/-- The bits of a number, the least significant first. -/
theorem getElem?_lsbBits {n v j : Nat} (hj : j < n) : (lsbBits n v)[j]? = some (v.testBit j) := by
  induction n generalizing v j with
  | zero => omega
  | succ n ih =>
    cases j with
    | zero => simp [lsbBits, Nat.testBit_zero]
    | succ j => rw [lsbBits, List.getElem?_cons_succ, ih (by omega), Nat.testBit_succ]

section
variable {pool : Nat → Byte} {c : BitCursor}

/-- A list of bits stands in the stream at a cursor. -/
def WrittenAt (pool : Nat → Byte) (c : BitCursor) (bits : List Bool) : Prop :=
  ∀ j : Nat, j < bits.length → bits[j]? = some (cursorBit pool c j)

/-- Bits one after another stand one after another. -/
theorem writtenAt_append (a b : List Bool) :
    WrittenAt pool c (a ++ b) ↔ WrittenAt pool c a ∧ WrittenAt pool (c.advance a.length) b := by
  constructor
  · intro h
    refine ⟨fun j hj => ?_, fun j hj => ?_⟩
    · have := h j (by rw [List.length_append]; omega)
      rwa [List.getElem?_append_left hj] at this
    · have := h (a.length + j) (by rw [List.length_append]; omega)
      rwa [List.getElem?_append_right (by omega), Nat.add_sub_cancel_left, ← cursorBit_advance] at this
  · rintro ⟨ha, hb⟩ j hj
    rw [List.length_append] at hj
    by_cases hja : j < a.length
    · rw [List.getElem?_append_left hja, ha j hja]
    · rw [List.getElem?_append_right (by omega), hb (j - a.length) (by omega), cursorBit_advance,
        Nat.add_sub_cancel' (by omega)]

theorem writtenAt_zeros (n : Nat) :
    WrittenAt pool c (List.replicate n false) ↔ ∀ j : Nat, j < n → cursorBit pool c j = false := by
  simp only [WrittenAt, List.length_replicate]
  refine forall₂_congr fun j hj => ?_
  rw [List.getElem?_replicate, if_pos hj, Option.some.injEq, eq_comm]

theorem writtenAt_lsbBits (n v : Nat) :
    WrittenAt pool c (lsbBits n v) ↔ ∀ j : Nat, j < n → cursorBit pool c j = v.testBit j := by
  simp only [WrittenAt, length_lsbBits]
  refine forall₂_congr fun j hj => ?_
  rw [getElem?_lsbBits hj, Option.some.injEq, eq_comm]

/-- The part that a run length and a residual in the normal form share: zeros, a 1, and a number. -/
theorem writtenAt_unary (z n v : Nat) :
    WrittenAt pool c (List.replicate z false ++ true :: lsbBits n v) ↔
      ZerosThenOne pool c z ∧ ∀ j : Nat, j < n → cursorBit pool c (z + 1 + j) = v.testBit j := by
  have hone : WrittenAt pool (c.advance z) [true] ↔ cursorBit pool c z = true := by
    simp [WrittenAt, cursorBit_advance, @eq_comm _ true]
  rw [show true :: lsbBits n v = [true] ++ lsbBits n v from rfl, writtenAt_append, writtenAt_append,
    writtenAt_zeros, List.length_replicate, hone, writtenAt_lsbBits, ZerosThenOne, and_assoc, advance_advance]
  simp only [cursorBit_advance, List.length_cons, List.length_nil, Nat.zero_add]

end

/-- The byte of the pool that stands at a byte boundary. -/
theorem byte_of_bits {pool : Nat → Byte} {bp : Nat} {q : Byte}
    (h : ∀ j : Nat, j < 8 → cursorBit pool ⟨bp, 0⟩ j = q.toNat.testBit j) : pool bp = q := by
  refine BitVec.eq_of_getLsbD_eq fun j hj => ?_
  have hj' := h j hj
  rwa [cursorBit, streamBit, show (8 * bp + 0 + j) / 8 = bp by omega, show (8 * bp + 0 + j) % 8 = j by omega] at hj'

/-- Settles O3: the zeros and the 1 say the count, the window after them holds the suffix. -/
theorem gammaCodesRoundTrip : Obligations.GammaCodesRoundTrip := by
  intro pool len c z k hbit hz hk hbits hroom
  have hlen : (GrCode.bits 0 0 (.gamma z k)).length = 2 * z + 1 := by
    simp only [GrCode.bits, List.length_append, List.length_replicate, List.length_cons, length_lsbBits]
    omega
  have hwritten : WrittenAt pool c (GrCode.bits 0 0 (.gamma z k)) := fun j hj => hbits j (hlen ▸ hj)
  obtain ⟨hone, hsuffix⟩ := (writtenAt_unary z z k).mp hwritten
  have hfind : FindsOne len c z := by
    simp only [FindsOne, BitCursor.advance]
    omega
  have hcode : (windowWord pool (c.advance (z + 1))).toNat % 2 ^ z = k := by
    have := windowWord_field (pool := pool) (c := c.advance (z + 1)) (i := 0) (n := z) (v := k)
      (by have := advance_bit_lt c (z + 1); omega) hk
      (fun j hj => by rw [cursorBit_advance, Nat.zero_add, hsuffix j hj])
    simpa using this
  rw [gammaAt_of_findsOne hbit hone hfind, if_neg (by omega), if_pos (by simp only [BitCursor.advance]; omega), hcode]

/-- A residual in the normal form decodes to itself. -/
theorem valueAt_of_golomb_written {pool : Nat → Byte} {len k q r : Nat} {c : BitCursor} (hbit : c.bit < 8)
    (hk : k ≤ 8) (hr : r < 2 ^ k) (hq : q ≤ 31 - c.bit)
    (hwritten : WrittenAt pool c (GrCode.bits c.bit k (.golomb q r)))
    (hroom : (8 * c.bp + c.bit + (q + 1 + k)) / 8 + 4 ≤ len) :
    valueAt pool len k c = .ok (.golomb q r, c.advance (q + 1 + k)) := by
  obtain ⟨hone, hremainder⟩ := (writtenAt_unary q k r).mp hwritten
  have hfind : FindsOne len c q := by
    simp only [FindsOne, BitCursor.advance]
    omega
  have hcode : (windowWord pool (c.advance (12 * (q / 12))) >>> (q % 12 + 1)).toNat % 2 ^ k = r := by
    refine windowWord_field (by have := advance_bit_lt c (12 * (q / 12)); omega) hr fun j hj => ?_
    rw [cursorBit_advance, ← hremainder j hj]
    exact congrArg _ (by omega)
  rw [valueAt_of_findsOne hbit k (m := q) (by omega) hone.2 hone hfind, hcode]

/-- A residual in the long form decodes to itself. -/
theorem valueAt_of_golombx_written {pool : Nat → Byte} {len k r : Nat} {q : Byte} {c : BitCursor} (hbit : c.bit < 8)
    (hk : k ≤ 8) (hr : r < 2 ^ k) (hwritten : WrittenAt pool c (GrCode.bits c.bit k (.golombx q r)))
    (hroom : (8 * c.bp + c.bit + (32 - c.bit + 8 + k)) / 8 + 4 ≤ len) :
    valueAt pool len k c = .ok (.golombx q r, BitCursor.advance ⟨c.bp + 5, 0⟩ k) := by
  have hquot : c.advance (32 - c.bit) = ⟨c.bp + 4, 0⟩ := by
    simp only [BitCursor.advance, BitCursor.mk.injEq]
    omega
  have hrem : BitCursor.advance ⟨c.bp + 4, 0⟩ 8 = ⟨c.bp + 5, 0⟩ := by
    simp [BitCursor.advance]
  rw [GrCode.bits, List.append_assoc, writtenAt_append, writtenAt_append, writtenAt_zeros, writtenAt_lsbBits,
    writtenAt_lsbBits, List.length_replicate, length_lsbBits, hquot, hrem] at hwritten
  obtain ⟨hzeros, hquotient, hremainder⟩ := hwritten
  have hcode : (windowWord pool ⟨c.bp + 5, 0⟩).toNat % 2 ^ k = r := by
    have := windowWord_field (pool := pool) (c := ⟨c.bp + 5, 0⟩) (i := 0) (n := k) (v := r) (by simp only; omega) hr
      (fun j hj => by rw [Nat.zero_add, hremainder j hj])
    simpa using this
  rw [valueAt_of_zeros k (by omega) hzeros, escapeAt_eq, if_pos (by omega), if_pos (by omega),
    byte_of_bits hquotient, hcode]

/-- Settles O4: the normal form by its unary part, the long form by its window of zeros. -/
theorem residualCodesRoundTrip : Obligations.ResidualCodesRoundTrip := by
  intro pool len k r c hbit hk hr
  refine ⟨fun q hq hbits hroom => ?_, fun q hbits hroom => ?_⟩
  · refine valueAt_of_golomb_written hbit hk hr hq (fun j hj => hbits j ?_) hroom
    simpa [GrCode.bits, length_lsbBits, Nat.add_assoc, Nat.add_comm 1 k] using hj
  · refine valueAt_of_golombx_written hbit hk hr (fun j hj => hbits j ?_) hroom
    simpa [GrCode.bits, length_lsbBits, Nat.add_assoc] using hj

/-! ## The data faults of `GR.DEC` (R201, spec/60_exceptions.md R256 (c)) -/

/-- What a data fault of `GR.DEC` leaves. -/
theorem grAbort_faulted (c : Cause) (info : Nat) {s : State} (hchan : s.x.chan.toNat ≤ 3) :
    GrFaulted s (grAbort c info s) c.code info := by
  refine ⟨?_, grAbort_keepsNonTargets c info hchan⟩
  obtain ⟨m, hm⟩ := grAbort_frame c info s
  rw [hm]
  rfl

/-- Where `GR.DEC` fetches no code but a fault, the step is that fault. -/
theorem step_of_grFetch_raise {s : State} {c : Cause} {info : Nat} (hp : s.phase = .grDec)
    (hf : grFetch s = .raise c info) : step s = .next (grAbort c info s) := by
  simp only [step, fetch, hp, fetchCode, hf]

theorem gammaCode_overrun {z k : Nat} {s : State} (h : 25 ≤ z ∨ s.gr.lim < s.gr.i + (2 ^ z + k)) :
    gammaCode z k s = grAbort .grOverrun s.gr.i s := if_pos h

theorem grFetch_tableRange {s : State} (hrun : s.gr.run ≠ 0) (ha : 1024 ≤ s.gr.a) :
    grFetch s = .raise .grTableRange s.gr.a := by
  rw [grFetch, if_neg hrun, if_pos ha]

/-- Between runs a rejected run length is fetched as its fault. -/
theorem grFetch_of_gammaAt_reject {s : State} {r : Reject} (hrun : s.gr.run = 0) (hi : s.gr.i < s.gr.lim)
    (h : gammaAt s.poolByte s.poolLen s.gr.cur = .reject r) : grFetch s = grReject s.gr.i r := by
  rw [grFetch, if_pos hrun, if_neg (by omega), h]

/-- Inside a run a rejected residual is fetched as its fault. -/
theorem grFetch_of_valueAt_reject {s : State} {r : Reject} (hrun : s.gr.run ≠ 0) (ha : s.gr.a < 1024)
    (h : valueAt s.poolByte s.poolLen s.golombParam s.gr.cur = .reject r) : grFetch s = grReject s.gr.i r := by
  rw [grFetch, if_neg hrun, if_neg (by omega), h]

/-- Past its checks, with pixels wanted and no pool, `GR.DEC` fails at its polarity byte (R192). -/
theorem exec_grDec_of_no_pool {s : State} (he : s.err = 0#8) (hchecks : firstFailing (grChecks s) = none)
    (hcount : 0 < s.pixCount) (hpool : s.poolLen = 0) : exec .grDec s = .next (grAbort .grIndexRange 0 s) := by
  have hexec : exec .grDec s = .next (whenReady (checked grChecks grDec) s) := rfl
  have hfetch : fetchByte s.poolByte s.poolLen 0 = .reject (.poolRange 0) := if_pos (by omega)
  rw [hexec, whenReady_ready _ s he, checked_pass _ _ s hchecks, grDec, if_neg (by omega), hfetch]

/-- A code run without a fault before it does what it does. -/
theorem exec_codeInstr_ready (c : GrCode) {s : State} (he : s.err = 0#8) : exec c.instr s = .next (runCode c s) := by
  rw [exec_codeInstr, whenReady_ready _ s he]

/-- The data faults of the codes and of the command's first fetch. -/
theorem exec_grFaults {s : State} (hchan : s.x.chan.toNat ≤ 3) (he : s.err = 0#8) :
    (∀ z k : Nat, 25 ≤ z ∨ s.gr.lim < s.gr.i + (2 ^ z + k) →
      ∃ t : State, exec (.gamma z k) s = .next t ∧ GrFaulted s t 8#8 s.gr.i) ∧
    (1024 ≤ s.gr.a →
      (∀ q r : Nat, ∃ t : State, exec (.golomb q r) s = .next t ∧ GrFaulted s t 7#8 s.gr.a) ∧
      (∀ (q : Byte) (r : Nat), ∃ t : State, exec (.golombx q r) s = .next t ∧ GrFaulted s t 7#8 s.gr.a)) ∧
    (firstFailing (grChecks s) = none → 0 < s.pixCount → s.poolLen = 0 →
      ∃ t : State, exec .grDec s = .next t ∧ GrFaulted s t 6#8 0) := by
  have hfault (c : GrCode) (cause : Cause) (info : Nat) (h : runCode c s = grAbort cause info s) :
      ∃ t : State, exec c.instr s = .next t ∧ GrFaulted s t cause.code info :=
    ⟨_, (exec_codeInstr_ready c he).trans (congrArg _ h), grAbort_faulted cause info hchan⟩
  refine ⟨fun z k h => hfault (.gamma z k) _ _ (gammaCode_overrun h), fun ha => ⟨fun q r => ?_, fun q r => ?_⟩,
    fun hchecks hcount hpool => ?_⟩
  · exact hfault (.golomb q r) _ _ (if_pos ha)
  · exact hfault (.golombx q r) _ _ (if_pos ha)
  · exact ⟨_, exec_grDec_of_no_pool he hchecks hcount hpool, grAbort_faulted .grIndexRange 0 hchan⟩

/-- The data faults of a running `GR.DEC`. -/
theorem step_grFaults {s : State} (hchan : s.x.chan.toNat ≤ 3) (hp : s.phase = .grDec) :
    (s.gr.run ≠ 0 → 1024 ≤ s.gr.a → ∃ t : State, step s = .next t ∧ GrFaulted s t 7#8 s.gr.a) ∧
    (s.gr.run = 0 → s.gr.i < s.gr.lim →
      (gammaAt s.poolByte s.poolLen s.gr.cur = .reject .countTooLong →
        ∃ t : State, step s = .next t ∧ GrFaulted s t 8#8 s.gr.i) ∧
      ∀ bp : Nat, gammaAt s.poolByte s.poolLen s.gr.cur = .reject (.poolRange bp) →
        ∃ t : State, step s = .next t ∧ GrFaulted s t 6#8 bp) ∧
    (s.gr.run ≠ 0 → s.gr.a < 1024 → ∀ bp : Nat,
      valueAt s.poolByte s.poolLen (gbl s.gr.a s.gr.n) s.gr.cur = .reject (.poolRange bp) →
        ∃ t : State, step s = .next t ∧ GrFaulted s t 6#8 bp) := by
  have hfault (cause : Cause) (info : Nat) (h : grFetch s = .raise cause info) :
      ∃ t : State, step s = .next t ∧ GrFaulted s t cause.code info :=
    ⟨_, step_of_grFetch_raise hp h, grAbort_faulted cause info hchan⟩
  refine ⟨fun hrun ha => hfault .grTableRange _ (grFetch_tableRange hrun ha),
    fun hrun hi => ⟨fun h => ?_, fun bp h => ?_⟩, fun hrun ha bp h => ?_⟩
  · exact hfault .grOverrun _ (grFetch_of_gammaAt_reject hrun hi h)
  · exact hfault .grIndexRange bp (grFetch_of_gammaAt_reject hrun hi h)
  · exact hfault .grIndexRange bp (grFetch_of_valueAt_reject hrun ha h)

/-- Settles O47: each fault by where it is raised, and the rejected fetches by their stream bits. -/
theorem golombFaults : Obligations.GolombFaults :=
  ⟨fun _ hchan => ⟨exec_grFaults hchan, step_grFaults hchan⟩, fun _ _ _ hbit =>
    ⟨gammaAt_poolRange_iff hbit, valueAt_poolRange_iff hbit, gammaAt_countTooLong_iff hbit⟩⟩

end Sys2Proof.Machine
end

section
/-! PROOFS. The buffers (spec/20_memory.md R60 to R70): what the host's accesses and the compress commands write, and
that no step writes past a capacity. Settles O22, O27, O30, O59. -/

namespace Sys2Proof.Machine

/-! ## The host's accesses to the buffers (R60, R64, R65) -/

/-- An access inside its space goes on. -/
theorem State.atIndex_inside {s t : State} {sp : Space} {i n : Nat} (h : n * i + n ≤ s.capacity sp) :
    s.atIndex sp i n t = .next t := if_pos h

theorem State.readByte_setEvents (s : State) (es : List Event) (sp : Space) (a : Nat) :
    (s.setEvents es).readByte sp a = s.readByte sp a := by
  cases sp <;> rfl

/-- A word write changes the four bytes of its word, little-endian. -/
theorem State.readByte_writePixWord (s : State) (i : Nat) (v : Word) (a : Nat) :
    (s.writePixWord i v).readByte .pix a =
      if a / 4 = i then v.extractLsb' (8 * (a % 4)) 8 else s.readByte .pix a := by
  simp only [State.writePixWord, State.writePixLane, State.readByte_writeByte, true_and]
  by_cases hword : a / 4 = i
  · obtain ⟨k, hk, rfl⟩ : ∃ k < 4, a = 4 * i + k := ⟨a % 4, Nat.mod_lt _ (by decide), by omega⟩
    rw [if_pos hword, show (4 * i + k) % 4 = k by omega]
    interval_cases k <;> simp
  · rw [if_neg hword, if_neg (by omega), if_neg (by omega), if_neg (by omega), if_neg (by omega)]

/-- The lanes of a word of `PIX` are its four bytes. -/
theorem lane_readPixWord (s : State) (i : Nat) {k : Nat} (hk : k < 4) :
    lane (s.readPixWord i) k = s.readByte .pix (4 * i + k) := by
  obtain ⟨h0, h1, h2, h3⟩ := lane_pack (s.readByte .pix (4 * i)) (s.readByte .pix (4 * i + 1))
    (s.readByte .pix (4 * i + 2)) (s.readByte .pix (4 * i + 3))
  interval_cases k
  exacts [h0, h1, h2, h3]

/-- Settles O22: each access by its meaning, inside its space. -/
theorem hostBufferAccess : Obligations.HostBufferAccess := by
  intro s rest sp i b v hp
  refine ⟨fun he hi => ?_, fun he hi => ?_, fun he hi => ?_, fun he hi => ?_⟩ <;> rw [step_of_access hp he]
  · refine ⟨(s.setEvents rest).writeByte sp i b, State.atIndex_inside ?_, ?_, fun sq a => ?_⟩
    · show 1 * i + 1 ≤ s.capacity sp
      omega
    · rw [State.writeByte_eq, State.mem_setMem_same]
    · rw [State.readByte_writeByte, State.readByte_setEvents]
  · refine ⟨((s.setEvents rest).readByte sp i).zeroExtend 32, State.atIndex_inside ?_, ?_⟩
    · show 1 * i + 1 ≤ s.capacity sp
      omega
    · have hbyte : (s.readByte sp i).toNat < 2 ^ 8 := (s.readByte sp i).isLt
      rw [State.readByte_setEvents, BitVec.toNat_setWidth]
      omega
  · refine ⟨(s.setEvents rest).writePixWord i v, State.atIndex_inside ?_, rfl, fun a => ?_⟩
    · show 4 * i + 4 ≤ 4 * s.cfg.pixCap
      omega
    · rw [State.readByte_writePixWord, State.readByte_setEvents]
  · refine ⟨(s.setEvents rest).readPixWord i, State.atIndex_inside ?_, fun k hk => ?_⟩
    · show 4 * i + 4 ≤ 4 * s.cfg.pixCap
      omega
    · exact (lane_readPixWord _ i hk).trans (s.readByte_setEvents rest .pix _)

/-! ## How many bytes a compression emits (spec/41_lz_compress.md R151, R156) -/

/-- A compression stands after `k` tokens, which have `n` bytes together. -/
structure Comp.Holds (c : Comp) (k n : Nat) : Prop where
  /-- the marker is at the next token's place in its group -/
  mask : c.mask = 1#8 <<< (k % 8)
  /-- flushed and pending are the tokens' bytes and the control bytes of the full groups -/
  bytes : c.out.length + c.toks.length = n + k / 8
  /-- between groups nothing is pending -/
  fresh : k % 8 = 0 → c.toks = []

section
variable {c : Comp} {k n : Nat}

theorem Comp.holds_start (l : Lzc) : (Comp.start l).Holds 0 0 := ⟨rfl, rfl, fun _ => rfl⟩

/-- A recorded token counts with its bytes; the eighth of a group brings the group's control byte. -/
theorem Comp.Holds.record (h : c.Holds k n) (isMatch : Bool) (bytes : List Byte) :
    (c.record isMatch bytes).Holds (k + 1) (n + bytes.length) := by
  obtain ⟨hmask, hbytes, -⟩ := h
  have hlast : ∀ i : Nat, i < 8 → ((1#8 <<< i) <<< 1 = 0#8 ↔ i = 7) := by decide
  have hmove : ∀ i : Nat, i < 8 → (1#8 <<< i) <<< 1 = 1#8 <<< (i + 1) := by decide
  have hplace : k % 8 < 8 := Nat.mod_lt k (by decide)
  unfold Comp.record
  rw [hmask]
  simp only [hlast _ hplace]
  split
  · refine ⟨by rw [show (k + 1) % 8 = 0 by omega]; rfl, ?_, fun _ => rfl⟩
    simp only [List.length_append, List.length_cons, List.length_nil]
    omega
  · refine ⟨by rw [hmove _ hplace, show (k + 1) % 8 = k % 8 + 1 by omega], ?_, fun h0 => by omega⟩
    simp only [List.length_append]
    omega

/-- With the pending group there is a control byte for every eight tokens begun. -/
theorem Comp.Holds.length_flushed (h : c.Holds k n) : c.flushed.length = n + (k + 7) / 8 := by
  obtain ⟨hmask, hbytes, hfresh⟩ := h
  have hfirst : ∀ i : Nat, i < 8 → (1#8 <<< i = 1#8 ↔ i = 0) := by decide
  have hplace : k % 8 < 8 := Nat.mod_lt k (by decide)
  unfold Comp.flushed
  rw [hmask]
  simp only [hfirst _ hplace]
  split
  · next h0 =>
    rw [hfresh h0, List.length_nil] at hbytes
    omega
  · rw [List.length_append, List.length_cons]
    omega

/-- No match is found in fewer than three bytes (R134). -/
theorem Lzc.three_le_of_findMatch {l : Lzc} {inp : List Byte} (h : 3 ≤ (l.findMatch inp).1) : 3 ≤ inp.length := by
  unfold Lzc.findMatch at h
  split at h
  · simp
  · simp at h

/-- A match token has no more bytes than three, and no more than the match yields (R97 to R99). -/
theorem length_matchToken {len : Nat} (pos : Pos) (h : 3 ≤ len) :
    (matchToken len pos).bytes.length ≤ len ∧ (matchToken len pos).bytes.length ≤ 3 := by
  unfold matchToken
  split <;> simp only [LzToken.bytes, List.length_cons, List.length_nil] <;> omega

/-- A token has no more bytes than it takes, and no more than there are. -/
theorem Comp.Holds.token (h : c.Holds k n) {inp : List Byte} (hinp : 1 ≤ inp.length) :
    ∃ e : Nat, (c.token inp).2.Holds (k + 1) (n + e) ∧ e ≤ (c.token inp).1 ∧ e ≤ inp.length := by
  have hput (bytes : List Byte) : (c.put bytes).Holds k n := ⟨h.mask, h.bytes, h.fresh⟩
  unfold Comp.token
  split
  · next hlen =>
    obtain ⟨hle, hle3⟩ := length_matchToken (c.lzc.findMatch inp).2 hlen
    exact ⟨_, (hput _).record true _, hle, hle3.trans (Lzc.three_le_of_findMatch hlen)⟩
  · have hone : (inp.take 1).length = 1 := by
      rw [List.length_take]
      omega
    exact ⟨_, (hput _).record false _, hone.le, hone.le.trans hinp⟩

/-- The loop makes at most a token, and at most a byte of a token, from each byte of its input. -/
theorem Comp.Holds.loop (fuel : Nat) (inp : List Byte) (h : c.Holds k n) :
    ∃ k' n' : Nat, (Comp.loop fuel inp c).Holds k' n' ∧ k' ≤ k + inp.length ∧ n' ≤ n + inp.length := by
  induction fuel generalizing inp c k n with
  | zero => exact ⟨k, n, h, Nat.le_add_right _ _, Nat.le_add_right _ _⟩
  | succ fuel ih =>
    cases inp with
    | nil => exact ⟨k, n, h, le_rfl, le_rfl⟩
    | cons b rest =>
      obtain ⟨e, hnew, htaken, hthere⟩ := h.token (inp := b :: rest) (by simp)
      obtain ⟨hpos, -⟩ := c.token_spec (b :: rest)
      obtain ⟨k', n', hend, hk, hn⟩ := ih ((b :: rest).drop (c.token (b :: rest)).1) hnew
      rw [List.length_drop] at hk hn
      rw [List.length_cons] at hk hn hthere ⊢
      exact ⟨k', n', hend, by omega, by omega⟩

end

/-- The worst case of a compression: every byte a literal, and a control byte for eight of them (R156). -/
theorem compress_length_le (l : Lzc) (inp : List Byte) :
    (compress l inp).1.length ≤ inp.length + (inp.length + 7) / 8 := by
  obtain ⟨k, n, hend, hk, hn⟩ := (Comp.holds_start l).loop inp.length inp
  have hlen : (compress l inp).1.length = n + (k + 7) / 8 := hend.length_flushed
  omega

/-! ## What the compress commands write (spec/41_lz_compress.md R151 to R155) -/

/-- The compressed bytes of a command fit `OBUF` where its second check has passed (R156, R254). -/
theorem compress_fits {s : State} (h : s.inLen + (s.inLen + 7) / 8 ≤ s.cfg.obufCap) :
    (compress s.lzc s.input).1.length ≤ s.cfg.obufCap := by
  have hbound := compress_length_le s.lzc s.input
  have hinput : s.input.length = s.inLen := s.inputFrom_length 0 s.inLen
  omega

/-- `LZ.COMP` past its checks changes `OBUF`, the live dictionary and `OUT_LEN`, and nothing else. -/
theorem lzComp_eq (s : State) : lzComp s =
    ((s.setObuf (lzComp s).obuf).setLzc (s.lzc.putBytes s.input)).setOutLen
      (BitVec.ofNat 32 (compress s.lzc s.input).1.length) := by
  obtain ⟨m, hm⟩ := s.writeBytes_frame .obuf 0 (compress s.lzc s.input).1
  rw [lzComp, hm, compress_lzc]
  rfl

/-- `OBUF` after `LZ.COMP`: the compressed bytes from index 0, and beyond them what it held. -/
theorem readByte_lzComp (s : State) (a : Nat) :
    (lzComp s).readByte .obuf a = ((compress s.lzc s.input).1[a]?).getD (s.readByte .obuf a) := by
  have h : (lzComp s).readByte .obuf a =
      (s.writeBytes .obuf 0 (compress s.lzc s.input).1).readByte .obuf a := rfl
  rw [h, State.readByte_writeBytes]
  by_cases ha : a < (compress s.lzc s.input).1.length
  · rw [dif_pos ⟨Nat.zero_le a, ha⟩, List.getElem?_eq_getElem ha]
    rfl
  · rw [dif_neg fun h => ha h.2, List.getElem?_eq_none (by omega)]
    rfl

/-- A command with its checks passed, and no fault before it. -/
theorem whenReady_checked {checks : State → List (Bool × Nat)} (f : State → State) {s : State} (he : s.err = 0#8)
    (hchecks : firstFailing (checks s) = none) : whenReady (checked checks f) s = f s := by
  rw [whenReady_ready _ s he, checked_pass _ _ s hchecks]

theorem exec_lzComp_of_checks {s : State} (he : s.err = 0#8) (hchecks : firstFailing (compChecks s) = none) :
    exec .lzComp s = .next (lzComp s) := congrArg Host.Outcome.next (whenReady_checked lzComp he hchecks)

theorem exec_lzCblk_of_checks {s : State} (he : s.err = 0#8) (hchecks : firstFailing (compChecks s) = none) :
    exec .lzCblk s = .next (lzCblk s) := congrArg Host.Outcome.next (whenReady_checked lzCblk he hchecks)

/-- Settles O27: the frame of `LZ.COMP`, and `OBUF` byte by byte. -/
theorem lzCompResult : Obligations.LzCompResult := fun s he hin hout =>
  ⟨lzComp s, exec_lzComp_of_checks he ((compChecks_pass s).mpr ⟨hin, hout⟩), lzComp_eq s, readByte_lzComp s⟩

/-- `LZ.CBLK` after its attempt, by the attempt's size. -/
theorem lzCblk_of_smaller {s : State} (h : (compress s.lzc s.input).1.length < s.inLen) :
    lzCblk s = (lzComp (lzStore s)).setMark 0#32 := if_pos h

theorem lzCblk_of_not_smaller {s : State} (h : s.inLen ≤ (compress s.lzc s.input).1.length) :
    lzCblk s = storeRaw (lzComp (lzStore s)) := if_neg (by omega)

/-- The attempt of `LZ.CBLK`: `LZ.STORE`, then `LZ.COMP`. -/
theorem attempt_eq (s : State) : lzComp (lzStore s) =
    (((lzStore s).setObuf (lzComp (lzStore s)).obuf).setLzc (s.lzc.putBytes s.input)).setOutLen
      (BitVec.ofNat 32 (compress s.lzc s.input).1.length) := by
  have h := lzComp_eq (lzStore s)
  rw [State.input_lzStore] at h
  exact h

/-- After the attempt `LZ.RESTORE` finds the snapshot, and gives the dictionary as it was. -/
theorem lzRestore_attempt (s : State) :
    lzRestore (lzComp (lzStore s)) = (lzComp (lzStore s)).setLzc s.lzc := by
  rw [attempt_eq]
  rfl

/-- The raw outcome is `LZ.RESTORE` after the attempt, the input over `OBUF`, and the two results. -/
theorem storeRaw_attempt (s : State) : storeRaw (lzComp (lzStore s)) =
    (((lzRestore (lzComp (lzStore s))).setObuf (storeRaw (lzComp (lzStore s))).obuf).setMark 1#32).setOutLen
      s.x.inLen := by
  obtain ⟨m, hm⟩ := storeRaw_frame (lzComp (lzStore s))
  rw [hm, lzRestore_attempt, attempt_eq]
  rfl

/-- `OBUF` after the raw outcome: the input, and beyond it what the attempt left. -/
theorem readByte_storeRaw_attempt (s : State) (a : Nat) : (storeRaw (lzComp (lzStore s))).readByte .obuf a =
    if a < s.inLen then s.readByte .ibuf a else (lzComp (lzStore s)).readByte .obuf a := by
  have hlen : (lzComp (lzStore s)).inLen = s.inLen := by
    rw [attempt_eq]
    rfl
  have hibuf : (lzComp (lzStore s)).readByte .ibuf a = s.readByte .ibuf a := by
    rw [attempt_eq]
    rfl
  rw [readByte_storeRaw, hlen, hibuf]

/-- Settles O30: the attempt is `LZ.STORE` then `LZ.COMP`, and the raw outcome is `LZ.RESTORE` and a copy. -/
theorem cblkIsStoreCompRestore : Obligations.CblkIsStoreCompRestore := by
  intro s he hvalid hin hout
  have hchecks : firstFailing (compChecks s) = none := (compChecks_pass s).mpr ⟨hin, hout⟩
  have hlen : (lzComp (lzStore s)).x.outLen.toNat = (compress s.lzc s.input).1.length := by
    have hlt : (compress s.lzc s.input).1.length < 2 ^ 32 := by
      have := compress_fits hout
      obtain ⟨-, -, -, hobuf, -⟩ := hvalid
      omega
    rw [attempt_eq]
    exact (BitVec.toNat_ofNat _ _).trans (Nat.mod_eq_of_lt hlt)
  have herr : (lzComp (lzStore s)).err = 0#8 := by
    rw [attempt_eq]
    exact he
  have hcblk := exec_lzCblk_of_checks he hchecks
  refine ⟨lzStore s, lzComp (lzStore s), lzRestore (lzComp (lzStore s)), ?_, ?_, ?_, hlen, ?_, fun hless => ?_,
    fun hmore => ?_⟩
  · exact congrArg Host.Outcome.next (whenReady_ready _ s he)
  · exact exec_lzComp_of_checks (s := lzStore s) he hchecks
  · exact congrArg Host.Outcome.next (whenReady_ready _ _ herr)
  · rw [lzRestore_attempt]
    rfl
  · rw [hcblk, lzCblk_of_smaller hless]
  · rw [hcblk, lzCblk_of_not_smaller hmore]
    exact ⟨_, rfl, storeRaw_attempt s, readByte_storeRaw_attempt s⟩

/-! ## No step writes outside a capacity (R60, R64, R70) -/

/-- What holds of a running `GR.DEC` for its writes to stay inside `PIX`. -/
def State.GrRoom (s : State) : Prop :=
  s.gr.lim ≤ s.cfg.pixCap ∧ s.gr.i + s.gr.run ≤ s.gr.lim ∧ s.pixBase + s.pixCount ≤ s.cfg.pixCap ∧
    s.x.chan.toNat ≤ 3

/-- The two invariants of the buffers' bounds, which the moves of `GR.DEC` keep together. -/
def State.Bounded (s : State) : Prop := s.Inside ∧ s.GrInside

/-- Where no `GR.DEC` is running, it has nothing to keep. -/
theorem State.grInside_of_phase {s : State} (hp : s.phase ≠ .grDec) : s.GrInside := fun h => absurd h hp

theorem State.GrInside.room {s : State} (h : s.GrInside) (hp : s.phase = .grDec) : s.GrRoom := h hp

section
variable {s : State}

/-! ### Updates of other fields leave the buffers inside -/

theorem State.Inside.raise (hs : s.Inside) (c : Cause) (info : Nat) : (raise c info s).Inside := hs
theorem State.Inside.endCommand (hs : s.Inside) : (endCommand s).Inside := hs
theorem State.Inside.setLzc (hs : s.Inside) (l : Lzc) : (s.setLzc l).Inside := hs
theorem State.Inside.setLzd (hs : s.Inside) (d : Lzd) : (s.setLzd d).Inside := hs
theorem State.Inside.setMark (hs : s.Inside) (v : Word) : (s.setMark v).Inside := hs
theorem State.Inside.setOutLen (hs : s.Inside) (v : Word) : (s.setOutLen v).Inside := hs
theorem State.Inside.setDraws (hs : s.Inside) (n : Nat) : (s.setDraws n).Inside := hs

/-! ### Writes -/

theorem State.Inside.setMem (hs : s.Inside) (sp : Space) {m : Memory} (hm : ∀ e ∈ m.cells, e.1 < s.capacity sp) :
    (s.setMem sp m).Inside := by
  intro sq e he
  have hcap : (s.setMem sp m).capacity sq = s.capacity sq := by
    simp only [State.capacity, State.cfg_setMem]
  rw [hcap]
  by_cases hq : sq = sp
  · subst hq
    rw [State.mem_setMem_same] at he
    exact hm e he
  · rw [State.mem_setMem_other s sp sq m hq] at he
    exact hs sq e he

/-- A byte written below its space's capacity is inside. -/
theorem State.Inside.writeByte (hs : s.Inside) {sp : Space} {a : Nat} (b : Byte) (ha : a < s.capacity sp) :
    (s.writeByte sp a b).Inside := by
  refine hs.setMem sp fun e he => ?_
  rcases mem_tabPut _ a b e he with rfl | he
  · exact ha
  · exact hs sp e he

theorem State.Inside.writeBytes (hs : s.Inside) {sp : Space} {a : Nat} {bs : List Byte}
    (ha : a + bs.length ≤ s.capacity sp) : (s.writeBytes sp a bs).Inside := by
  induction bs generalizing s a with
  | nil => exact hs
  | cons b rest ih =>
    rw [List.length_cons] at ha
    have hcap : (s.writeByte sp a b).capacity sp = s.capacity sp := by
      simp only [State.capacity, State.cfg_writeByte]
    exact ih (hs.writeByte b (by omega)) (by omega)

/-! ### `LZ.DECOMP` -/

theorem State.Inside.emit (hs : s.Inside) (c : Byte) (hop : s.lz.op < s.cfg.obufCap) : (s.emit c).Inside :=
  State.Inside.writeByte (s := s.setLzd (s.lzd.push c)) hs c hop

theorem State.Inside.copyMatch (hs : s.Inside) (n : Nat) (p : Pos) (hop : s.lz.op + n ≤ s.cfg.obufCap) :
    (copyMatch n p s).Inside := by
  induction n generalizing s p with
  | zero => exact hs
  | succ n ih =>
    refine ih (hs.emit _ (by omega)) _ ?_
    rw [State.lz_emit, State.cfg_emit]
    show s.lz.op + 1 + n ≤ s.cfg.obufCap
    omega

theorem State.Inside.lzAbort (hs : s.Inside) (c : Cause) (info : Nat) : (lzAbort c info s).Inside :=
  ((((hs.endCommand.setLzd _).setMem .obuf fun _ he => absurd he List.not_mem_nil).setOutLen _).setDraws _).raise c info

/-- Every item is checked against `OBUF`'s capacity before its output is written (R172). -/
theorem State.Inside.runToken (hs : s.Inside) (t : LzToken) : (runToken t s).Inside := by
  have hmatch (bytes len : Nat) (p : Pos) : (matchItem bytes len p s).Inside := by
    unfold matchItem
    split
    · exact hs.lzAbort _ _
    · next hfit =>
      exact State.Inside.copyMatch (s := (s.useControlBit).skipInput bytes) hs len p (Nat.le_of_not_gt hfit)
  cases t with
  | ctrl f =>
    simp only [Machine.runToken, ctrlItem]
    split
    · exact hs.lzAbort _ _
    · exact hs
  | lit c =>
    simp only [Machine.runToken, litItem]
    split
    · exact hs.lzAbort _ _
    · next hfit =>
      exact State.Inside.emit (s := (s.useControlBit).skipInput 1) hs c (Nat.le_of_not_gt hfit)
  | short p lc => exact hmatch 2 (shortLen lc) p
  | long p e => exact hmatch 3 (longLen e) p

theorem State.Inside.lzMicro (hs : s.Inside) : (lzMicro s).Inside := by
  unfold Machine.lzMicro
  split
  · exact hs.endCommand.setOutLen _
  · exact hs.lzAbort _ _
  · exact hs.runToken _

/-- A move of `LZ.DECOMP` starts no `GR.DEC`. -/
theorem lzMicro_phase (hp : s.phase = .lzDecomp) : (lzMicro s).phase ≠ .grDec := by
  rcases lzMicro_cases s with h | ⟨c, info, h⟩ | ⟨d, m, l, h, -⟩ <;> rw [h]
  · simp [(lzFinish_idle s).1]
  · simp [lzAbort_phase]
  · simp [hp]

/-! ### `GR.DEC` -/

theorem State.Inside.writePixLane (hs : s.Inside) {i k : Nat} (b : Byte) (hi : i < s.cfg.pixCap) (hk : k < 4) :
    (s.writePixLane i k b).Inside :=
  hs.writeByte b (show 4 * i + k < 4 * s.cfg.pixCap by omega)

/-- Four lanes one after another, as a word write and the forgetting of a whole word make them. -/
theorem State.Inside.writeFourLanes (hs : s.Inside) {i : Nat} (b0 b1 b2 b3 : Byte) (hi : i < s.cfg.pixCap) :
    ((((s.writePixLane i 0 b0).writePixLane i 1 b1).writePixLane i 2 b2).writePixLane i 3 b3).Inside :=
  (((hs.writePixLane b0 hi (by decide)).writePixLane b1 hi (by decide)).writePixLane b2 hi (by decide)).writePixLane
    b3 hi (by decide)

theorem State.Inside.writePixWord (hs : s.Inside) {i : Nat} (v : Word) (hi : i < s.cfg.pixCap) :
    (s.writePixWord i v).Inside := hs.writeFourLanes _ _ _ _ hi

theorem State.Inside.putPix (hs : s.Inside) {i : Nat} (e : Byte) (hi : i < s.cfg.pixCap)
    (hchan : s.x.chan.toNat ≤ 3) : (putPix i e s).Inside := by
  unfold Machine.putPix
  split
  · exact hs.writePixWord _ hi
  · exact hs.writePixLane e hi (by omega)

theorem State.Inside.putZeros (hs : s.Inside) (n : Nat) {i : Nat} (hi : i + n ≤ s.cfg.pixCap)
    (hchan : s.x.chan.toNat ≤ 3) : (putZeros n i s).Inside := by
  induction n generalizing s i with
  | zero => exact hs
  | succ n ih =>
    have hnew := hs.putPix (i := i) 0#8 (by omega) hchan
    obtain ⟨m, hm⟩ := putPix_frame i 0#8 s
    rw [Machine.putZeros]
    rw [hm] at hnew ⊢
    exact ih hnew (show i + 1 + n ≤ s.cfg.pixCap by omega) hchan

theorem State.Inside.forgetWords (hs : s.Inside) (d : Nat) (whole : Bool) {k : Nat} (hk : k < 4) (n : Nat) {i : Nat}
    (hi : i + n ≤ s.cfg.pixCap) : (forgetWords d whole k n i s).Inside := by
  induction n generalizing s i with
  | zero => exact hs
  | succ n ih =>
    rw [Machine.forgetWords]
    split
    · exact ih (hs.writeFourLanes _ _ _ _ (by omega)) (show i + 1 + n ≤ s.cfg.pixCap by omega)
    · exact ih (hs.writePixLane _ (by omega) hk) (show i + 1 + n ≤ s.cfg.pixCap by omega)

/-- The words a data fault leaves unspecified are inside `PIX` (R256 (c)). -/
theorem State.Inside.grAbort_bounded (hs : s.Inside) (hwords : s.pixBase + s.pixCount ≤ s.cfg.pixCap)
    (hchan : s.x.chan.toNat ≤ 3) (c : Cause) (info : Nat) : (grAbort c info s).Bounded := by
  have hforget := hs.endCommand.forgetWords s.draws (s.x.first == 1#32) (k := s.x.chan.toNat) (by omega) s.pixCount
    (i := s.pixBase) hwords
  exact ⟨(hforget.setDraws _).raise c info, State.grInside_of_phase (by rw [(grAbort_idle c info s).1]; decide)⟩

theorem gammaCode_bounded (z k : Nat) (hs : s.Inside) (hroom : s.GrRoom) (hrun : s.gr.run = 0) :
    (gammaCode z k s).Bounded := by
  obtain ⟨hlim, -, hwords, hchan⟩ := hroom
  unfold gammaCode
  split
  · exact hs.grAbort_bounded hwords hchan _ _
  next hfit =>
    obtain ⟨-, hfit⟩ := not_or.mp hfit
    split
    · have hnew := hs.putZeros (2 ^ z + k) (i := s.gr.i) (by omega) hchan
      obtain ⟨m, hm⟩ := putZeros_frame (2 ^ z + k) s.gr.i s
      rw [hm] at hnew ⊢
      exact ⟨hnew, fun _ => ⟨hlim, by simp only [State.gr_setGr, hrun]; omega, hwords, hchan⟩⟩
    · exact ⟨hs, fun _ => ⟨hlim, Nat.le_of_not_gt hfit, hwords, hchan⟩⟩

theorem takeResidual_bounded (v : Nat) (c : BitCursor) (hs : s.Inside) (hroom : s.GrRoom) (hrun : s.gr.run ≠ 0) :
    (takeResidual v c s).Bounded := by
  obtain ⟨hlim, hfits, hwords, hchan⟩ := hroom
  obtain ⟨hai, hal, har⟩ := s.gr.adapt_place v
  obtain ⟨hci, hcl, hcr⟩ := (s.gr.adapt v).countOne_place
  have hnew := hs.putPix (signMap s.cfg.evenPositive v) (show s.gr.i < s.cfg.pixCap by omega) hchan
  obtain ⟨m, hm⟩ := putPix_frame s.gr.i (signMap s.cfg.evenPositive v) s
  rw [takeResidual]
  rw [hm] at hnew ⊢
  refine ⟨hnew, fun _ => ⟨?_, ?_, hwords, hchan⟩⟩
  · simp only [State.gr_setGr, hcl, hal]
    exact hlim
  · simp only [State.gr_setGr, hci, hcl, hcr, hai, hal, har]
    omega

theorem runCode_bounded (c : GrCode) (hs : s.Inside) (hroom : s.GrRoom) (hc : isRunLength c = true ↔ s.gr.run = 0) :
    (runCode c s).Bounded := by
  have ⟨_, _, hwords, hchan⟩ := hroom
  cases c with
  | gamma z k => exact gammaCode_bounded z k hs hroom (hc.mp rfl)
  | golomb q r =>
    simp only [runCode, golombCode]
    split
    · exact hs.grAbort_bounded hwords hchan _ _
    · exact takeResidual_bounded _ _ hs hroom fun h => by cases hc.mpr h
  | golombx q r =>
    simp only [runCode, golombxCode]
    split
    · exact hs.grAbort_bounded hwords hchan _ _
    · exact takeResidual_bounded _ _ hs hroom fun h => by cases hc.mpr h

/-- A move of a running `GR.DEC` keeps the bounds. -/
theorem State.Bounded.grMicro (hp : s.phase = .grDec) (hs : s.Bounded) : (grMicro s).Bounded := by
  obtain ⟨hin, hgr⟩ := hs
  obtain ⟨-, -, hwords, hchan⟩ := hgr.room hp
  unfold Machine.grMicro
  cases hf : grFetch s with
  | done => exact ⟨hin, State.grInside_of_phase (s := endCommand s) (by simp)⟩
  | raise c info => exact hin.grAbort_bounded hwords hchan c info
  | code c => exact runCode_bounded c hin (hgr.room hp) (isRunLength_of_grFetch hf)

/-- The checks of `GR.DEC` pass only with the words wanted inside `PIX` (R254, check 6). -/
theorem words_of_grChecks (h : firstFailing (grChecks s) = none) : s.pixBase + s.pixCount ≤ s.cfg.pixCap := by
  by_contra hwords
  have hlast : decide (s.pixBase + s.pixCount > s.cfg.pixCap) = true := by simpa using hwords
  simp only [grChecks, hlast, firstFailing] at h
  split_ifs at h

theorem State.Inside.grDec (hs : s.Inside) (hchecks : firstFailing (grChecks s) = none) : (grDec s).Inside := by
  have hwords := words_of_grChecks hchecks
  have hchan := chan_of_grChecks hchecks
  unfold Machine.grDec
  split
  · exact hs
  · split
    · exact (hs.grAbort_bounded hwords hchan _ _).1
    · next b hb =>
      have hbegin : (grBegin b s).Bounded := ⟨hs, fun _ => ⟨hwords, Nat.le_add_right _ _, hwords, hchan⟩⟩
      rw [grRun_eq_movesOf]
      exact (movesOf_keeps_of_phase (P := State.Bounded) (fun _ hp ht => ht.grMicro hp) _ _ hbegin).1

/-! ### The compress commands, and every move -/

theorem State.Inside.lzComp (hs : s.Inside) (hout : s.inLen + (s.inLen + 7) / 8 ≤ s.cfg.obufCap) :
    (lzComp s).Inside :=
  ((hs.writeBytes (sp := .obuf) (a := 0) ((Nat.zero_add _).trans_le (compress_fits hout))).setLzc _).setOutLen _

theorem State.Inside.storeRaw (hs : s.Inside) (hin : s.inLen ≤ s.cfg.obufCap) : (storeRaw s).Inside := by
  have hinput : 0 + s.input.length ≤ s.cfg.obufCap := by
    rw [State.input, State.inputFrom_length]
    omega
  exact (((hs.setLzc s.snap).writeBytes (sp := .obuf) (a := 0) hinput).setMark _).setOutLen _

theorem State.Inside.lzCblk (hs : s.Inside) (hout : s.inLen + (s.inLen + 7) / 8 ≤ s.cfg.obufCap) :
    (lzCblk s).Inside := by
  have hattempt : (Machine.lzComp (lzStore s)).Inside := State.Inside.lzComp (s := lzStore s) hs hout
  unfold Machine.lzCblk
  split
  · exact hattempt.setMark _
  · refine hattempt.storeRaw ?_
    rw [attempt_eq]
    exact (Nat.le_add_right _ _).trans hout

theorem State.Inside.whenReady (hs : s.Inside) {f : State → State} (hf : (f s).Inside) : (whenReady f s).Inside :=
  whenReady_cases State.Inside f s hs fun _ => hf

theorem State.Inside.checked (hs : s.Inside) {checks : State → List (Bool × Nat)} {f : State → State}
    (hf : firstFailing (checks s) = none → (f s).Inside) : (checked checks f s).Inside :=
  checked_cases State.Inside checks f s (fun _ _ => hs) hf

/-- No command writes a byte outside a capacity. -/
theorem State.Inside.command (hs : s.Inside) {i : Instr} {t : State} (hi : isCommand i = true)
    (h : exec i s = .next t) : t.Inside := by
  cases i <;> cases h
  case lzComp => exact hs.whenReady (hs.checked fun hchecks => hs.lzComp ((compChecks_pass s).mp hchecks).2)
  case lzCblk => exact hs.whenReady (hs.checked fun hchecks => hs.lzCblk ((compChecks_pass s).mp hchecks).2)
  case lzRestore =>
    refine hs.whenReady ?_
    unfold lzRestore
    split <;> exact hs
  case lzDecomp => exact hs.whenReady (hs.checked fun _ => lzDecomp_keeps (fun _ hu => hu.lzMicro) hs)
  case grDec => exact hs.whenReady (hs.checked hs.grDec)
  case sysReset => exact hs
  case lzCreset | lzStore | lzDreset | lzPrime | pkGt | pkAdd | pkAvg | pkMed => exact hs.whenReady hs
  all_goals cases hi

theorem grDec_phase (hp : s.phase = .idle) (he : s.err = 0#8) : (grDec s).phase = .idle := by
  unfold grDec
  split
  · exact hp
  · split
    · exact (grAbort_idle _ _ s).1
    · exact (grRun_spec _ he).1.1

/-- After a command no command is running. -/
theorem exec_command_phase {i : Instr} {t : State} (hp : s.phase = .idle) (hi : isCommand i = true)
    (h : exec i s = .next t) : t.phase = .idle := by
  have hchecked (checks : State → List (Bool × Nat)) (f : State → State)
      (hf : s.err = 0#8 → (f s).phase = .idle) : (whenReady (checked checks f) s).phase = .idle :=
    whenReady_cases (·.phase = .idle) _ s hp fun he => checked_cases (·.phase = .idle) checks f s
      (fun _ _ => hp) fun _ => hf he
  cases exec_kind i s with
  | sysReset =>
    cases h
    rfl
  | lzDecomp =>
    cases h
    exact hchecked _ _ fun he => (lzDecomp_spec he).1.1
  | grDec =>
    cases h
    exact hchecked _ _ fun he => grDec_phase hp he
  | token k => cases k <;> cases hi
  | code c => cases c <;> cases hi
  | plain i f hexec hf =>
    rw [hexec] at h
    cases h
    exact (whenReady_sameControl hf).phase.trans hp

/-- A host access to an index inside its space writes inside it. -/
theorem State.Inside.access (hs : s.Inside) {a : HostAccess} {t : State} (h : hostAccess a s = .next t) : t.Inside := by
  have hrange : (Event.access a).inRange s = true := (hostAccess_goesOn a s).mp ⟨t, h⟩
  cases a with
  | writeByte sp i b => exact State.atIndex_next h ▸ hs.writeByte b (by simpa [Event.inRange] using hrange)
  | readByte sp i => exact State.atIndex_next h ▸ hs
  | writePix i v => exact State.atIndex_next h ▸ hs.writePixWord v (by simpa [Event.inRange] using hrange)
  | readPix i => exact State.atIndex_next h ▸ hs
  | _ =>
    cases h
    exact hs

theorem State.Inside.illegalCommand (hs : s.Inside) (w : Word) : (illegalCommand w s).Inside :=
  hs.whenReady hs

/-- After power-on nothing has been written. -/
theorem powerOnReset_inside (s : State) : (powerOnReset s).Inside := by
  intro sp e he
  cases sp <;> exact absurd he List.not_mem_nil

end

/-- Settles O59: between commands by the write of each access and each command, inside `GR.DEC` by its moves. -/
theorem stepKeepsInside : Obligations.StepKeepsInside := by
  intro s t hin hgr h
  have hrule := step_rule s
  generalize step s = o at h hrule
  have hidle {u : State} (hp : u.phase = .idle) : u.GrInside := State.grInside_of_phase (by rw [hp]; decide)
  cases hrule with
  | waits hp he =>
    cases h
    exact ⟨hin, hgr⟩
  | powersOn hp rest he =>
    cases h
    exact ⟨powerOnReset_inside _, hidle rfl⟩
  | accesses hp a rest he =>
    exact ⟨State.Inside.access (s := s.setEvents rest) hin h, hidle ((hostAccess_sameControl h).phase.trans hp)⟩
  | commands hp w rest i he hd =>
    have hi := isCommand_of_decodeCommand hd
    exact ⟨State.Inside.command (s := s.setEvents rest) hin hi h,
      hidle (exec_command_phase (s := s.setEvents rest) hp hi h)⟩
  | illegal hp w rest r he hd =>
    cases h
    exact ⟨State.Inside.illegalCommand (s := s.setEvents rest) hin w,
      hidle ((illegalCommand_sameControl w (s.setEvents rest)).phase.trans hp)⟩
  | lzMove hp =>
    cases h
    exact ⟨hin.lzMicro, State.grInside_of_phase (lzMicro_phase hp)⟩
  | grMove hp =>
    cases h
    exact State.Bounded.grMicro hp ⟨hin, hgr⟩
  | refused hp he =>
    cases h
    exact ⟨hin, hgr⟩

end Sys2Proof.Machine
end

section
/-! PROOFS. The encodings (spec/30_encoding.md): command words and stream items through the decoder and the encoder,
whole token streams through `LZ.DECOMP`, whole bit pools through `GR.DEC`, and the stream that a compression emits.
Settles O1, O2, O5, O8, O10, O28, O39, O42, O48. -/

namespace Sys2Proof.Machine

/-! ## Command words (R91 to R93) -/

/-- The opcode table as a relation: its opcodes are distinct. -/
theorem opcodeInstr_eq_some_iff (op : Nat) (i : Instr) : opcodeInstr op = some i ↔ (op, i) ∈ opcodeTable := by
  constructor
  · intro h
    obtain ⟨⟨op', j⟩, hfind, rfl⟩ := Option.map_eq_some_iff.mp h
    obtain rfl : op' = op := by simpa using List.find?_some hfind
    exact List.mem_of_find?_eq_some hfind
  · have hall : ∀ e ∈ opcodeTable, opcodeInstr e.1 = some e.2 := by decide
    exact hall (op, i)

/-- Bits 31:8 of a word are 0 exactly when it is below 256. -/
theorem highBits_eq_zero_iff (w : Word) : w.extractLsb' 8 24 = 0#24 ↔ w.toNat < 256 := by
  have hlt := w.isLt
  rw [← BitVec.toNat_inj, BitVec.extractLsb'_toNat, BitVec.toNat_ofNat, Nat.shiftRight_eq_div_pow]
  omega

/-- A word decodes to a command exactly when the table pairs them. -/
theorem decodeCommand_eq_ok_iff (w : Word) (i : Instr) : decodeCommand w = .ok i ↔ (w.toNat, i) ∈ opcodeTable := by
  have hsmall : ∀ e ∈ opcodeTable, e.1 < 256 := by decide
  unfold decodeCommand
  split
  · next hhigh =>
    have hlow : (w.extractLsb' 0 8).toNat = w.toNat := by
      rw [BitVec.extractLsb'_toNat]
      exact Nat.mod_eq_of_lt ((highBits_eq_zero_iff w).mp hhigh)
    rw [hlow, ← opcodeInstr_eq_some_iff]
    cases opcodeInstr w.toNat <;> simp
  · next hhigh =>
    exact iff_of_false (fun h => nomatch h) fun h => hhigh ((highBits_eq_zero_iff w).mpr (hsmall _ h))

/-- The encoder writes as command words exactly the table's. -/
theorem encode_eq_command_iff (bit k : Nat) (i : Instr) (w : Word) :
    encode bit k i = .command w ↔ (w.toNat, i) ∈ opcodeTable := by
  constructor
  · intro h
    cases i <;> cases h
    all_goals decide
  · have hall : ∀ e ∈ opcodeTable, encode bit k e.2 = .command (BitVec.ofNat 32 e.1) := by
      simp only [opcodeTable, List.forall_mem_cons]
      exact ⟨rfl, rfl, rfl, rfl, rfl, rfl, rfl, rfl, rfl, rfl, rfl, rfl, rfl, rfl, fun _ h => by cases h⟩
    intro h
    rw [hall _ h, BitVec.ofNat_toNat, BitVec.setWidth_eq]

/-! ## Stream items (R95 to R101) -/

/-- The nibbles of a match token's second byte. -/
theorem highNibble_append (hi lo : BitVec 4) : (hi ++ lo).extractLsb' 4 4 = hi := by
  exact BitVec.extractLsb'_append_eq_left 

theorem matchOffset_bytes (p : Pos) (hi : BitVec 4) :
    matchOffset (p.extractLsb' 0 8) (hi ++ p.extractLsb' 8 4) = p := by
  refine BitVec.eq_of_getLsbD_eq fun j hj => ?_
  simp only [matchOffset, BitVec.getLsbD_append, BitVec.getLsbD_extractLsb']
  grind

/-- The bytes of a short match are those its offset and length code were taken from. -/
theorem bytes_short (b0 b1 : Byte) : (LzToken.short (matchOffset b0 b1) (b1.extractLsb' 4 4)).bytes = [b0, b1] := by
  have hlow : (matchOffset b0 b1).extractLsb' 0 8 = b0 := by
    refine BitVec.eq_of_getLsbD_eq fun j hj => ?_
    simp only [matchOffset, BitVec.getLsbD_append, BitVec.getLsbD_extractLsb']
    grind
  have hhigh : b1.extractLsb' 4 4 ++ (matchOffset b0 b1).extractLsb' 8 4 = b1 := by
    refine BitVec.eq_of_getLsbD_eq fun j hj => ?_
    simp only [matchOffset, BitVec.getLsbD_append, BitVec.getLsbD_extractLsb']
    grind
  rw [LzToken.bytes, hlow, hhigh]

/-- The bytes of a long match are those its offset and extension were taken from. -/
theorem bytes_long {b0 b1 : Byte} (h : b1.extractLsb' 4 4 = 15#4) (b2 : Byte) :
    (LzToken.long (matchOffset b0 b1) b2).bytes = [b0, b1, b2] := by
  have hshort := bytes_short b0 b1
  rw [h] at hshort
  exact congrArg (· ++ [b2]) hshort

/-- A token's bytes are decoded to it, and what follows is left alone. -/
theorem decodeToken_bytes {t : LzToken} (ht : tokenProper t = true) (rest : List Byte) :
    decodeToken (decide (tokenKind t = 1)) (t.bytes ++ rest) = .ok (t, rest) := by
  cases t with
  | ctrl f => cases ht
  | lit c => rfl
  | short p lc =>
    have hlc : lc ≠ 15#4 := by simpa [tokenProper] using ht
    simp [decodeToken, tokenKind, LzToken.bytes, highNibble_append, matchOffset_bytes, hlc]
  | long p e =>
    simp [decodeToken, tokenKind, LzToken.bytes, highNibble_append, matchOffset_bytes]

/-- Only a proper token's own bytes are decoded to it, under its own control bit. -/
theorem decodeToken_eq_ok {isMatch : Bool} {bs rest : List Byte} {t : LzToken}
    (h : decodeToken isMatch bs = .ok (t, rest)) :
    tokenProper t = true ∧ isMatch = decide (tokenKind t = 1) ∧ bs = t.bytes ++ rest := by
  unfold decodeToken at h
  split at h
  · cases h
  · cases h
    exact ⟨rfl, rfl, rfl⟩
  · next b0 b1 after =>
    split at h
    · next hlc =>
      split at h <;> cases h
      exact ⟨rfl, rfl, by rw [bytes_long hlc]; rfl⟩
    · next hlc =>
      cases h
      exact ⟨by simpa [tokenProper] using hlc, rfl, by rw [bytes_short]; rfl⟩
  · cases h

/-! ## The obligations about words -/

/-- Settles O1: decoding is looking up the opcode table, whose opcodes are distinct and below 256. -/
theorem commandWordsDecode : Obligations.CommandWordsDecode := decodeCommand_eq_ok_iff

/-- Settles O2: commands both ways through the opcode table, items by their bytes. -/
theorem encodeDecodeAgree : Obligations.EncodeDecodeAgree := by
  refine ⟨fun i w bit k => ?_, fun _ _ _ _ => ⟨rfl, rfl⟩, fun t rest bit k ht => ?_,
    fun _ _ _ _ => decodeToken_eq_ok⟩
  · rw [encode_eq_command_iff, decodeCommand_eq_ok_iff]
  · exact ⟨t.bytes, by cases t <;> rfl, decodeToken_bytes ht rest⟩

/-- A word that is not in the table is rejected. -/
theorem decodeCommand_reject {w : Word} (h : ∀ i : Instr, (w.toNat, i) ∉ opcodeTable) :
    ∃ r : Reject, decodeCommand w = .reject r := by
  cases hd : decodeCommand w with
  | ok i => exact absurd ((decodeCommand_eq_ok_iff w i).mp hd) (h i)
  | reject r => exact ⟨r, rfl⟩

/-- The host's write of such a word is the illegal command (R93). -/
theorem step_of_no_command {s : State} {w : Word} {rest : List Event} (hp : s.phase = .idle)
    (he : s.events = .writeCmd w :: rest) (h : ∀ i : Instr, (w.toNat, i) ∉ opcodeTable) :
    step s = .next (illegalCommand w (s.setEvents rest)) := by
  obtain ⟨r, hr⟩ := decodeCommand_reject h
  simp only [step, fetch, fetchEvent, hp, he, hr]

/-- Settles O10: the word is rejected, and the illegal command is behind the prologue like any other. -/
theorem illegalCommandFaults : Obligations.IllegalCommandFaults := by
  intro s w rest hp he hw
  have hnone (i : Instr) : (w.toNat, i) ∉ opcodeTable := fun hi => hw (List.mem_map_of_mem (f := Prod.fst) hi)
  rw [step_of_no_command hp he hnone]
  refine ⟨fun herr => ?_, fun herr => ?_⟩
  · rw [illegalCommand, whenReady_ready _ _ (by exact herr), raise, BitVec.ofNat_toNat, BitVec.setWidth_eq]
    rfl
  · rw [illegalCommand, whenReady_faulted _ _ (by exact herr)]

/-- Settles O5: each is a closed fact about the decoders. -/
theorem specWordsDecode : Obligations.SpecWordsDecode := by
  unfold Obligations.SpecWordsDecode
  decide

/-! ## The stream at its cursor (R94, R172) -/

theorem State.take_inputFrom (s : State) (k a n : Nat) : (s.inputFrom a n).take k = s.inputFrom a (min k n) := by
  induction n generalizing a k with
  | zero => simp [State.inputFrom]
  | succ n ih =>
    cases k with
    | zero => rw [Nat.zero_min]; rfl
    | succ k => rw [Nat.succ_min_succ, State.inputFrom, List.take_succ_cons, ih, State.inputFrom]

theorem State.drop_inputFrom (s : State) (k a n : Nat) : (s.inputFrom a n).drop k = s.inputFrom (a + k) (n - k) := by
  induction n generalizing a k with
  | zero => simp [State.inputFrom]
  | succ n ih =>
    cases k with
    | zero => rfl
    | succ k => rw [State.inputFrom, List.drop_succ_cons, ih, Nat.succ_sub_succ, Nat.add_assoc, Nat.add_comm 1]

theorem State.inputFrom_congr {s t : State} (h : t.ibuf = s.ibuf) (a n : Nat) : t.inputFrom a n = s.inputFrom a n := by
  induction n generalizing a with
  | zero => rfl
  | succ n ih => rw [State.inputFrom, ih, State.inputFrom, State.readByte, State.readByte, State.mem, State.mem, h]

/-- The bytes of the input from the stream cursor on. -/
def State.unread (s : State) : List Byte := s.inputFrom s.lz.ip (s.inLen - s.lz.ip)

theorem State.length_unread (s : State) : s.unread.length = s.inLen - s.lz.ip := s.inputFrom_length _ _

/-- With `n` bytes left, they are the first ones to be read. -/
theorem State.unread_of_le {s : State} {n : Nat} (h : s.lz.ip + n ≤ s.inLen) :
    s.unread = s.inputFrom s.lz.ip n ++ s.unread.drop n := by
  have hfirst : s.unread.take n = s.inputFrom s.lz.ip n := by
    rw [State.unread, State.take_inputFrom, Nat.min_eq_left (by omega)]
  rw [← hfirst, List.take_append_drop]

/-- An item is decoded from what is left of the input. -/
theorem State.itemBytes_eq (s : State) : s.itemBytes = s.unread.take 3 := (s.take_inputFrom 3 _ _).symm

/-- Past the bytes just read come the others. -/
theorem State.unread_of_read {s t : State} {bs tail : List Byte} (h : s.unread = bs ++ tail)
    (hlen : t.inLen = s.inLen) (hibuf : t.ibuf = s.ibuf) (hip : t.lz.ip = s.lz.ip + bs.length) : t.unread = tail := by
  have hdrop := congrArg (List.drop bs.length) h
  rwa [List.drop_left, State.unread, State.drop_inputFrom, Nat.sub_sub, ← State.inputFrom_congr hibuf, ← hip,
    ← hlen] at hdrop

/-- A token's bytes are at most the three that are looked at. -/
theorem take_three_of_token (t : LzToken) (tail : List Byte) :
    (t.bytes ++ tail).take 3 = t.bytes ++ tail.take (3 - t.bytes.length) := by
  rw [List.take_append, List.take_of_length_le (by cases t <;> simp [LzToken.bytes])]

/-- The item that stands at the stream cursor, with the control bits it needs, is the next move (R172). -/
theorem lzFetch_of_decodeItem {s : State} {t : LzToken} {tail rest : List Byte} (hread : s.unread = t.bytes ++ tail)
    (h : s.decodeItem = .ok (t, rest)) : lzFetch s = .token t := by
  have hlen := congrArg List.length hread
  have hpos := token_bytes_length_pos t
  rw [State.length_unread, List.length_append] at hlen
  rw [lzFetch, if_neg (by omega), h]

/-- When the group's control bits are used up, a control byte comes next. -/
theorem lzFetch_of_ctrl {s : State} {f : Byte} {tail : List Byte} (hread : s.unread = f :: tail)
    (hbits : s.lz.nbits = 0) : lzFetch s = .token (.ctrl f) := by
  refine lzFetch_of_decodeItem (t := .ctrl f) hread (rest := tail.take 2) ?_
  rw [State.decodeItem, if_pos hbits, State.itemBytes_eq, hread]
  rfl

/-- With control bits left, a token of the kind that the lowest one says comes next. -/
theorem lzFetch_of_token {s : State} {t : LzToken} {tail : List Byte} (hread : s.unread = t.bytes ++ tail)
    (ht : tokenProper t = true) (hbits : s.lz.nbits ≠ 0)
    (hkind : s.lz.ctrl.getLsbD 0 = decide (tokenKind t = 1)) : lzFetch s = .token t := by
  refine lzFetch_of_decodeItem hread (rest := tail.take (3 - t.bytes.length)) ?_
  rw [State.decodeItem, if_neg hbits, hkind, State.itemBytes_eq, hread, take_three_of_token, decodeToken_bytes ht]

/-- Inside `LZ.DECOMP` a step runs the item fetched. -/
theorem step_of_lzFetch_token {s : State} {t : LzToken} (hp : s.phase = .lzDecomp) (h : lzFetch s = .token t) :
    step s = exec t.instr s := by
  simp only [step, fetch, hp, fetchToken, h]

/-- Settles O8: the item whose bytes stand at the cursor is fetched, and the step runs it. -/
theorem stepRunsStreamToken : Obligations.StepRunsStreamToken := by
  intro s hp
  refine ⟨fun hip hbits => ?_, fun hip hbits hkind => ?_, fun hip hbits hkind hlc => ?_,
    fun hip hbits hkind hlc => ?_⟩
  · exact step_of_lzFetch_token hp (lzFetch_of_ctrl (State.unread_of_le (n := 1) hip) hbits)
  · exact step_of_lzFetch_token hp
      (lzFetch_of_token (t := .lit _) (State.unread_of_le (n := 1) hip) rfl hbits hkind)
  · have hbytes := bytes_short (s.readByte .ibuf s.lz.ip) (s.readByte .ibuf (s.lz.ip + 1))
    have hread := (State.unread_of_le (n := 2) hip).trans (congrArg (· ++ _) hbytes.symm)
    exact step_of_lzFetch_token hp (lzFetch_of_token hread (by simpa [tokenProper] using hlc) hbits hkind)
  · have hbytes := bytes_long hlc (b0 := s.readByte .ibuf s.lz.ip) (s.readByte .ibuf (s.lz.ip + 2))
    have hread := (State.unread_of_le (n := 3) hip).trans (congrArg (· ++ _) hbytes.symm)
    exact step_of_lzFetch_token hp (lzFetch_of_token hread rfl hbits hkind)

/-! ## The end of a command's loop -/

/-- Moves of a running command lead from the first state to the second. -/
def Moves (p : Phase) (micro : State → State) : State → State → Prop :=
  Relation.ReflTransGen fun s t => s.phase = p ∧ t = micro s

theorem Moves.single {p : Phase} {micro : State → State} {s : State} (hp : s.phase = p) : Moves p micro s (micro s) :=
  Relation.ReflTransGen.single ⟨hp, rfl⟩

theorem Moves.trans {p : Phase} {micro : State → State} {s t u : State} (h : Moves p micro s t)
    (h' : Moves p micro t u) : Moves p micro s u := Relation.ReflTransGen.trans h h'

/-- Between commands there is no move. -/
theorem Moves.eq_of_idle {p : Phase} (hp : p ≠ .idle) {micro : State → State} {s t : State}
    (h : Moves p micro s t) (hs : s.phase = .idle) : s = t := by
  rcases h.cases_head with rfl | ⟨u, ⟨hrun, -⟩, -⟩
  · rfl
  · exact absurd (hrun.symm.trans hs) hp

/-- Where moves lead to the end of a command, its loop leads there. -/
theorem movesOf_eq_of_moves {p : Phase} (hp : p ≠ .idle) {micro : State → State} {Running : State → Prop}
    {left : State → Nat} (hprog : Progresses p micro Running left) (fuel : Nat) {s t : State} (hs : Running s)
    (hfuel : left s ≤ fuel) (hmoves : Moves p micro s t) (ht : t.phase = .idle) : movesOf p micro fuel s = t := by
  induction fuel generalizing s with
  | zero => exact absurd (hprog.left_pos s hs) (by omega)
  | succ fuel ih =>
    have hphase := hprog.phase_eq s hs
    rw [movesOf, if_pos hphase]
    rcases hmoves.cases_head with rfl | ⟨u, ⟨-, rfl⟩, hrest⟩
    · exact absurd (hphase.symm.trans ht) hp
    · rcases hprog.ends_or_on s hs with hidle | ⟨hon, hless⟩
      · rw [movesOf_of_idle hp micro fuel hidle.1]
        exact Moves.eq_of_idle hp hrest hidle.1
      · exact ih hon (by omega) hrest

/-! ## What tokens do (R174, R175) -/

/-- Bytes written one after another from an index on. -/
def Memory.writes (m : Memory) (a : Nat) : List Byte → Memory
  | [] => m
  | b :: bs => (m.write a b).writes (a + 1) bs

theorem Memory.writes_append (m : Memory) (a : Nat) (bs cs : List Byte) :
    m.writes a (bs ++ cs) = (m.writes a bs).writes (a + bs.length) cs := by
  induction bs generalizing m a with
  | nil => rfl
  | cons b bs ih =>
    rw [List.cons_append, Memory.writes, ih, Memory.writes, List.length_cons, Nat.add_assoc, Nat.add_comm 1]

theorem State.writeBytes_obuf (s : State) (a : Nat) (bs : List Byte) :
    s.writeBytes .obuf a bs = s.setObuf (s.obuf.writes a bs) := by
  induction bs generalizing s a with
  | nil => simp [State.writeBytes, Memory.writes]
  | cons b bs ih =>
    rw [State.writeBytes, ih, State.writeByte_obuf, State.obuf_setObuf, State.setObuf_setObuf, Memory.writes]

/-- Bytes written from index 0 on stand there, and beyond them is what there was. -/
theorem readByte_writeBytes_front (s : State) (sp : Space) (bs : List Byte) (a : Nat) :
    (s.writeBytes sp 0 bs).readByte sp a = (bs[a]?).getD (s.readByte sp a) := by
  rw [State.readByte_writeBytes]
  by_cases ha : a < bs.length
  · rw [dif_pos ⟨Nat.zero_le a, ha⟩, List.getElem?_eq_getElem ha]
    rfl
  · rw [dif_neg fun h => ha h.2, List.getElem?_eq_none (by omega)]
    rfl

/-- The state after an output: the ring and the bytes that it gives, the bytes in `OBUF` at the output cursor, and the
stream's transient values from then on. -/
def State.produced (s : State) (r : Lzd × List Byte) (l : LzCursor) : State :=
  ((s.setLzd r.1).setObuf (s.obuf.writes s.lz.op r.2)).setLz l

@[simp] theorem State.lzd_produced (s : State) (r : Lzd × List Byte) (l : LzCursor) : (s.produced r l).lzd = r.1 := rfl
@[simp] theorem State.lz_produced (s : State) (r : Lzd × List Byte) (l : LzCursor) : (s.produced r l).lz = l := rfl
@[simp] theorem State.cfg_produced (s : State) (r : Lzd × List Byte) (l : LzCursor) :
    (s.produced r l).cfg = s.cfg := rfl

/-- `OBUF` after an output. -/
theorem State.readByte_produced (s : State) (r : Lzd × List Byte) (l : LzCursor) (a : Nat) :
    (s.produced r l).readByte .obuf a =
      if h : s.lz.op ≤ a ∧ a - s.lz.op < r.2.length then r.2[a - s.lz.op]'h.2 else s.readByte .obuf a := by
  rw [← State.readByte_writeBytes, State.writeBytes_obuf]
  rfl

/-- One output and then another. -/
theorem State.produced_produced (s : State) (r r' : Lzd × List Byte) {l : LzCursor} (l' : LzCursor)
    (h : l.op = s.lz.op + r.2.length) :
    (s.produced r l).produced r' l' = s.produced (r'.1, r.2 ++ r'.2) l' := by
  simp only [State.produced, State.setLz_setLzd, State.setObuf_setLzd, State.setLz_setObuf, State.setLzd_setLzd,
    State.setObuf_setObuf, State.setLz_setLz, State.obuf_setLz, State.obuf_setObuf, State.lz_setLz, h,
    Memory.writes_append]

/-- Taking a token's control bit and bytes from the stream changes nothing that an output starts from. -/
theorem State.produced_skipInput (s : State) (n : Nat) (r : Lzd × List Byte) (l : LzCursor) :
    ((s.useControlBit).skipInput n).produced r l = s.produced r l := by
  simp only [State.useControlBit_skipInput, State.produced, State.setLz_setLzd, State.setLz_setObuf, State.setLz_setLz,
    State.obuf_setLz, State.lz_setLz]

theorem State.lzd_skipInput (s : State) (n : Nat) : ((s.useControlBit).skipInput n).lzd = s.lzd := rfl

/-- One output byte is an output. -/
theorem State.emit_eq_produced (s : State) (c : Byte) :
    s.emit c = s.produced (s.lzd.push c, [c]) { s.lz with op := s.lz.op + 1 } := rfl

/-- The copy of a match is an output of the bytes copied. -/
theorem copyMatch_eq_produced (n : Nat) (p : Pos) (s : State) :
    copyMatch n p s = s.produced (Lzd.copy n p s.lzd) { s.lz with op := s.lz.op + n } := by
  induction n generalizing p s with
  | zero => rfl
  | succ n ih =>
    rw [copyMatch, ih, State.lz_emit, State.lzd_emit, State.emit_eq_produced, State.produced_produced _ _ _ _ rfl,
      Nat.add_assoc, Nat.add_comm 1 n]
    rfl

/-- The stream's transient values after `n` tokens that have so many bytes and yield so many (R172). -/
def LzCursor.past (l : LzCursor) (n bytes yields : Nat) : LzCursor where
  ip := l.ip + bytes
  op := l.op + yields
  ctrl := l.ctrl >>> n
  nbits := l.nbits - n

/-- A match that fits is an output of its copy. -/
theorem matchItem_eq_produced {bytes len : Nat} (p : Pos) {s : State} (hfits : s.lz.op + len ≤ s.cfg.obufCap) :
    matchItem bytes len p s = s.produced (Lzd.copy len p s.lzd) (s.lz.past 1 bytes len) := by
  rw [matchItem, if_neg (by omega), copyMatch_eq_produced, State.produced_skipInput, State.lzd_skipInput]
  rfl

/-- A token that fits is an output of its item. -/
theorem runToken_eq_produced {t : LzToken} (ht : tokenProper t = true) {s : State}
    (hfits : s.lz.op + (s.lzd.item t).2.length ≤ s.cfg.obufCap) :
    runToken t s = s.produced (s.lzd.item t) (s.lz.past 1 t.bytes.length (s.lzd.item t).2.length) := by
  cases t with
  | ctrl f => cases ht
  | lit c =>
    have hroom : ¬s.lz.op + 1 > s.cfg.obufCap := Nat.not_lt.mpr hfits
    rw [runToken, litItem, if_neg hroom, State.emit_eq_produced, State.produced_skipInput, State.lzd_skipInput]
    rfl
  | short p lc =>
    simp only [Lzd.item, Lzd.copy_length] at hfits ⊢
    exact matchItem_eq_produced p hfits
  | long p e =>
    simp only [Lzd.item, Lzd.copy_length] at hfits ⊢
    exact matchItem_eq_produced p hfits

theorem Lzd.items_append (d : Lzd) (ts us : List LzToken) : d.items (ts ++ us) =
    (((d.items ts).1.items us).1, (d.items ts).2 ++ ((d.items ts).1.items us).2) := by
  induction ts generalizing d with
  | nil => rfl
  | cons t ts ih => simp only [List.cons_append, Lzd.items, ih, List.append_assoc]

/-! ## Control bytes (R94, R95) -/

/-- The low bits of a control byte are the kinds of these tokens, the first one's the lowest. -/
def HoldsKinds (ctrl : Byte) (group : List LzToken) : Prop :=
  ∀ (i : Nat) (h : i < group.length), ctrl.getLsbD i = decide (tokenKind group[i] = 1)

theorem tokenKind_le (t : LzToken) : tokenKind t ≤ 1 := by
  cases t <;> simp [tokenKind]

theorem testBit_controlBits (group : List LzToken) (x i : Nat) (h : i < group.length) :
    (controlBits group + 2 ^ group.length * x).testBit i = decide (tokenKind group[i] = 1) := by
  induction group generalizing i with
  | nil => exact absurd h (Nat.not_lt_zero i)
  | cons t rest ih =>
    have hkind := tokenKind_le t
    have hsum : controlBits (t :: rest) + 2 ^ (t :: rest).length * x =
        tokenKind t + 2 * (controlBits rest + 2 ^ rest.length * x) := by
      rw [controlBits, List.length_cons, pow_succ]
      ring
    rw [hsum]
    cases i with
    | zero =>
      rw [Nat.testBit_zero, List.getElem_cons_zero]
      exact decide_eq_decide.mpr (by omega)
    | succ i =>
      rw [Nat.testBit_succ, List.getElem_cons_succ, ← ih i (Nat.lt_of_succ_lt_succ h)]
      exact congrArg (Nat.testBit · i) (by omega)

/-- A control byte holds the kinds of its group, whatever its unused bits. -/
theorem controlByte_holdsKinds (spare : Nat) {group : List LzToken} (h : group.length ≤ 8) :
    HoldsKinds (controlByte spare group) group := by
  intro i hi
  rw [controlByte, BitVec.getLsbD_ofNat, testBit_controlBits group spare i hi]
  simp only [Bool.and_eq_right_iff_imp, decide_eq_true_eq]
  exact fun _ => by omega

theorem HoldsKinds.head {ctrl : Byte} {t : LzToken} {rest : List LzToken} (h : HoldsKinds ctrl (t :: rest)) :
    ctrl.getLsbD 0 = decide (tokenKind t = 1) := h 0 (Nat.succ_pos _)

theorem HoldsKinds.tail {ctrl : Byte} {t : LzToken} {rest : List LzToken} (h : HoldsKinds ctrl (t :: rest)) :
    HoldsKinds (ctrl >>> 1) rest := fun i hi => by
  rw [BitVec.getLsbD_ushiftRight, Nat.add_comm]
  exact h (i + 1) (Nat.succ_lt_succ hi)

/-! ## Whole streams (R172, R173, R264 (b)) -/

theorem LzCursor.past_past (l : LzCursor) (n n' b b' y y' : Nat) :
    (l.past n b y).past n' b' y' = l.past (n + n') (b + b') (y + y') := by
  simp only [LzCursor.past, BitVec.shiftRight_add, Nat.add_assoc, Nat.sub_sub]

/-- The tokens of a group, one after another. -/
theorem moves_of_group (group : List LzToken) {tail : List Byte} {s : State} (hp : s.phase = .lzDecomp)
    (hproper : ∀ t ∈ group, tokenProper t = true) (hread : s.unread = group.flatMap LzToken.bytes ++ tail)
    (hbits : group.length ≤ s.lz.nbits) (hkinds : HoldsKinds s.lz.ctrl group)
    (hfits : s.lz.op + (s.lzd.items group).2.length ≤ s.cfg.obufCap) :
    Moves .lzDecomp lzMicro s (s.produced (s.lzd.items group)
      (s.lz.past group.length (group.flatMap LzToken.bytes).length (s.lzd.items group).2.length)) := by
  induction group generalizing s with
  | nil => exact .refl
  | cons t rest ih =>
    obtain ⟨ht, hrest⟩ := List.forall_mem_cons.mp hproper
    rw [List.flatMap_cons, List.append_assoc] at hread
    rw [List.length_cons] at hbits
    simp only [Lzd.items, List.length_append] at hfits
    have hmicro : lzMicro s =
        s.produced (s.lzd.item t) (s.lz.past 1 t.bytes.length (s.lzd.item t).2.length) := by
      rw [lzMicro, lzFetch_of_token hread ht (by omega) hkinds.head]
      exact runToken_eq_produced ht (by omega)
    have hmove := Moves.single (micro := lzMicro) hp
    rw [hmicro] at hmove
    have hmoves := ih (s := s.produced (s.lzd.item t) (s.lz.past 1 t.bytes.length (s.lzd.item t).2.length)) hp hrest
      (State.unread_of_read hread rfl rfl rfl) (by simp only [State.lz_produced, LzCursor.past]; omega) hkinds.tail
      (by simp only [State.lz_produced, State.lzd_produced, State.cfg_produced, LzCursor.past]; omega)
    rw [State.produced_produced _ _ _ _ rfl, State.lz_produced, State.lzd_produced, LzCursor.past_past,
      Nat.add_comm 1] at hmoves
    simpa only [Lzd.items, List.flatMap_cons, List.length_append, List.length_cons] using hmove.trans hmoves

/-- A control byte before a token opens a group (R173). -/
theorem lzMicro_of_ctrl {s : State} {f b : Byte} {tail : List Byte} (hread : s.unread = f :: b :: tail)
    (hbits : s.lz.nbits = 0) :
    lzMicro s = s.produced (s.lzd, []) { ip := s.lz.ip + 1, op := s.lz.op, ctrl := f, nbits := 8 } := by
  have hlen := congrArg List.length hread
  rw [State.length_unread, List.length_cons, List.length_cons] at hlen
  rw [lzMicro, lzFetch_of_ctrl hread hbits]
  exact if_neg (by omega)

/-- A group with its control byte (R94). -/
theorem moves_of_whole_group (spare : Nat) {group : List LzToken} {tail : List Byte} {s : State}
    (hp : s.phase = .lzDecomp) (hne : group ≠ []) (hlen : group.length ≤ 8)
    (hproper : ∀ t ∈ group, tokenProper t = true)
    (hread : s.unread = controlByte spare group :: (group.flatMap LzToken.bytes ++ tail)) (hbits : s.lz.nbits = 0)
    (hfits : s.lz.op + (s.lzd.items group).2.length ≤ s.cfg.obufCap) :
    ∃ l : LzCursor, Moves .lzDecomp lzMicro s (s.produced (s.lzd.items group) l) ∧
      l.op = s.lz.op + (s.lzd.items group).2.length ∧ l.nbits = 8 - group.length ∧
      (s.produced (s.lzd.items group) l).unread = tail := by
  obtain ⟨b, bs, hb⟩ : ∃ (b : Byte) (bs : List Byte), group.flatMap LzToken.bytes = b :: bs := by
    obtain ⟨t, rest, rfl⟩ := List.exists_cons_of_ne_nil hne
    rw [List.flatMap_cons]
    cases t <;> exact ⟨_, _, rfl⟩
  have hctrl : lzMicro s = s.produced (s.lzd, [])
      { ip := s.lz.ip + 1, op := s.lz.op, ctrl := controlByte spare group, nbits := 8 } :=
    lzMicro_of_ctrl (hread.trans (by rw [hb]; rfl)) hbits
  have hopened : (lzMicro s).unread = group.flatMap LzToken.bytes ++ tail := by
    rw [hctrl]
    exact State.unread_of_read (bs := [_]) hread rfl rfl rfl
  have hmoves := moves_of_group group (s := lzMicro s) (by rw [hctrl]; exact hp) hproper hopened
    (by rw [hctrl]; exact hlen) (by rw [hctrl]; exact controlByte_holdsKinds spare hlen) (by rw [hctrl]; exact hfits)
  have hall := (Moves.single hp).trans hmoves
  rw [hctrl, State.produced_produced _ _ _ _ rfl] at hall
  exact ⟨_, hall, rfl, rfl, State.unread_of_read (s := lzMicro s) hopened (by rw [hctrl]; rfl) (by rw [hctrl]; rfl)
    (by rw [hctrl]; rfl)⟩

/-- The groups of a stream, one after another, to the end of the input. -/
theorem moves_of_stream (spare fuel : Nat) {ts : List LzToken} {s : State} (hp : s.phase = .lzDecomp)
    (hproper : ∀ t ∈ ts, tokenProper t = true) (hfuel : ts.length ≤ fuel)
    (hread : s.unread = streamWithSpare spare fuel ts) (hbits : ts ≠ [] → s.lz.nbits = 0)
    (hfits : s.lz.op + (s.lzd.items ts).2.length ≤ s.cfg.obufCap) :
    ∃ l : LzCursor, Moves .lzDecomp lzMicro s (s.produced (s.lzd.items ts) l) ∧
      l.op = s.lz.op + (s.lzd.items ts).2.length ∧ (s.produced (s.lzd.items ts) l).unread = [] := by
  induction fuel generalizing ts s with
  | zero =>
    obtain rfl := List.length_eq_zero_iff.mp (Nat.le_zero.mp hfuel)
    exact ⟨s.lz, .refl, rfl, hread⟩
  | succ fuel ih =>
    cases ts with
    | nil => exact ⟨s.lz, .refl, rfl, hread⟩
    | cons t rest =>
      have hlater : ((t :: rest).drop 8).length = rest.length + 1 - 8 := by rw [List.length_drop, List.length_cons]
      have hgroup : ((t :: rest).take 8).length = min 8 (rest.length + 1) := by
        rw [List.length_take, List.length_cons]
      rw [streamWithSpare] at hread
      rw [List.length_cons] at hfuel
      rw [← List.take_append_drop 8 (t :: rest)] at hproper hfits ⊢
      rw [Lzd.items_append, List.length_append] at hfits
      obtain ⟨hgproper, hlproper⟩ := List.forall_mem_append.mp hproper
      obtain ⟨l, hmoves, hop, hnbits, hunread⟩ := moves_of_whole_group spare hp (by simp) (by omega) hgproper hread
        (hbits (by simp)) (by omega)
      obtain ⟨l', hmoves', hop', hunread'⟩ := ih (s := s.produced (s.lzd.items ((t :: rest).take 8)) l) hp hlproper
        (by omega) hunread (fun h => by have := List.length_pos_iff.mpr h; rw [State.lz_produced]; omega)
        (by rw [State.lz_produced, State.lzd_produced, State.cfg_produced]; omega)
      rw [State.produced_produced _ _ _ _ hop] at hmoves' hunread'
      rw [Lzd.items_append, List.length_append]
      exact ⟨l', hmoves.trans hmoves', hop'.trans (by rw [State.lz_produced, State.lzd_produced]; omega), hunread'⟩

/-- At the end of the input the command ends. -/
theorem moves_of_unread_nil {s : State} (hp : s.phase = .lzDecomp) (h : s.unread = []) :
    Moves .lzDecomp lzMicro s (lzFinish s) := by
  have hlen := congrArg List.length h
  rw [State.length_unread, List.length_nil] at hlen
  have hmicro : lzMicro s = lzFinish s := by rw [lzMicro, lzFetch, if_pos (Nat.le_of_sub_eq_zero hlen)]
  exact hmicro ▸ Moves.single hp

/-- Before its first item `LZ.DECOMP` has read nothing. -/
theorem unread_lzBegin (s : State) : (lzBegin s).unread = s.input :=
  State.inputFrom_congr (s := s) (t := lzBegin s) rfl 0 s.inLen

/-- Past its check, without a fault, `LZ.DECOMP` is its loop (R172). -/
theorem exec_lzDecomp_of_check {s : State} (he : s.err = 0#8) (hlen : s.inLen ≤ s.cfg.ibufCap) :
    exec .lzDecomp s = .next (lzDecomp s) :=
  congrArg Host.Outcome.next (whenReady_checked lzDecomp he ((decompChecks_pass s).mpr hlen))

/-- After an output, the end of the command leaves the ring and the bytes. -/
theorem endCommand_produced (s : State) (r : Lzd × List Byte) (l : LzCursor) :
    endCommand (s.produced r l) = ((endCommand s).setLzd r.1).setObuf (s.obuf.writes s.lz.op r.2) := rfl

theorem endCommand_lzBegin (s : State) : endCommand (lzBegin s) = endCommand s := rfl
theorem lzBegin_op (s : State) : (lzBegin s).lz.op = 0 := rfl
theorem lzBegin_lzd (s : State) : (lzBegin s).lzd = s.lzd := rfl
theorem lzBegin_obuf (s : State) : (lzBegin s).obuf = s.obuf := rfl

/-- `LZ.DECOMP` of a whole stream is one output of all its tokens. -/
theorem lzDecomp_of_stream {s : State} {ts : List LzToken} {spare : Nat} (he : s.err = 0#8)
    (hproper : ∀ t ∈ ts, tokenProper t = true) (hread : s.input = streamWithSpare spare ts.length ts)
    (hfits : (s.lzd.items ts).2.length ≤ s.cfg.obufCap) :
    lzDecomp s = (((endCommand s).setLzd (s.lzd.items ts).1).setObuf (s.obuf.writes 0 (s.lzd.items ts).2)).setOutLen
      (BitVec.ofNat 32 (s.lzd.items ts).2.length) := by
  obtain ⟨l, hmoves, hop, hunread⟩ := moves_of_stream spare ts.length (s := lzBegin s) rfl hproper le_rfl
    ((unread_lzBegin s).trans hread) (fun _ => rfl) ((Nat.zero_add _).le.trans hfits)
  have hend := hmoves.trans (moves_of_unread_nil rfl hunread)
  rw [lzDecomp, lzRun_eq_movesOf, movesOf_eq_of_moves (by decide) lzMicro_progresses (s.inLen + 1) (s := lzBegin s)
    ⟨rfl, he⟩ le_rfl hend rfl, lzFinish, State.lz_produced, hop, endCommand_produced, endCommand_lzBegin,
    lzBegin_op, lzBegin_lzd, lzBegin_obuf, Nat.zero_add]

/-- Settles O42: by the groups of the stream, and in each group by its tokens. -/
theorem lzDecompDecodesTokens : Obligations.LzDecompDecodesTokens := by
  intro s ts spare he hlen hproper hread hfits
  refine ⟨_, exec_lzDecomp_of_check he hlen, ?_, fun a => ?_⟩
  · rw [lzDecomp_of_stream he hproper hread hfits]
    rfl
  · have hobuf : (lzDecomp s).readByte .obuf a = (s.writeBytes .obuf 0 (s.lzd.items ts).2).readByte .obuf a := by
      rw [lzDecomp_of_stream he hproper hread hfits, State.writeBytes_obuf]
      rfl
    rw [hobuf, readByte_writeBytes_front]

/-! ## The byte-serial copy (R175) -/

/-- Bytes pushed into the ring one after another. -/
def Lzd.pushes (d : Lzd) (bs : List Byte) : Lzd := bs.foldl Lzd.push d

theorem Lzd.dr_pushes (d : Lzd) (bs : List Byte) : (d.pushes bs).dr = d.dr + BitVec.ofNat 12 bs.length := by
  induction bs generalizing d with
  | nil => exact (BitVec.add_zero d.dr).symm
  | cons b bs ih =>
    have hpush : d.pushes (b :: bs) = (d.push b).pushes bs := rfl
    rw [hpush, ih, Lzd.push_dr, List.length_cons]
    bv_omega

/-- A ring position holds the byte pushed there, or what it held. -/
theorem Lzd.get_pushes (d : Lzd) {bs : List Byte} (h : bs.length ≤ 4096) (q : Pos) :
    (d.pushes bs).get q = (bs[(q - d.dr).toNat]?).getD (d.get q) := by
  induction bs generalizing d with
  | nil => rfl
  | cons b bs ih =>
    rw [List.length_cons] at h
    have hpush : d.pushes (b :: bs) = (d.push b).pushes bs := rfl
    rw [hpush, ih _ (by omega), Lzd.get_push, Lzd.push_dr]
    by_cases hq : q = d.dr
    · have hlast : bs.length ≤ (q - (d.dr + 1#12)).toNat := by bv_omega
      rw [List.getElem?_eq_none hlast, if_pos hq, hq, BitVec.sub_self]
      rfl
    · have hnext : (q - d.dr).toNat = (q - (d.dr + 1#12)).toNat + 1 := by bv_omega
      rw [hnext, List.getElem?_cons_succ, if_neg hq]

/-- A copy pushes the bytes it yields. -/
theorem Lzd.copy_ring (n : Nat) (p : Pos) (d : Lzd) : (Lzd.copy n p d).1 = d.pushes (Lzd.copy n p d).2 := by
  induction n generalizing p d with
  | zero => rfl
  | succ n ih => exact ih _ _

/-- A copied byte is what its source holds once the bytes before it are written. -/
theorem Lzd.copy_getElem? {n a : Nat} (p : Pos) (d : Lzd) (h : a < n) : (Lzd.copy n p d).2[a]? =
    some ((d.pushes ((Lzd.copy n p d).2.take a)).get (p + BitVec.ofNat 12 a)) := by
  induction n generalizing p d a with
  | zero => exact absurd h (Nat.not_lt_zero a)
  | succ n ih =>
    cases a with
    | zero => rw [BitVec.add_zero]; rfl
    | succ a =>
      have hsource : p + BitVec.ofNat 12 (a + 1) = p + 1#12 + BitVec.ofNat 12 a := by bv_omega
      rw [hsource]
      exact ih (p + 1#12) (d.push (d.get p)) (Nat.lt_of_succ_lt_succ h)

/-- So it is a byte of the same copy where its source was overwritten, and else what the ring had. -/
theorem Lzd.copy_getElem?_of_source {n a : Nat} (p : Pos) (d : Lzd) (h : a < n) (hn : n ≤ 4096) :
    (Lzd.copy n p d).2[a]? = some (if (p + BitVec.ofNat 12 a - d.dr).toNat < a then
      ((Lzd.copy n p d).2[(p + BitVec.ofNat 12 a - d.dr).toNat]?).getD (d.get (p + BitVec.ofNat 12 a))
      else d.get (p + BitVec.ofNat 12 a)) := by
  have hlen : ((Lzd.copy n p d).2.take a).length ≤ 4096 := by
    rw [List.length_take]
    omega
  rw [Lzd.copy_getElem? p d h, Lzd.get_pushes d hlen, List.getElem?_take]
  split <;> rfl

/-- What a match that fits leaves in `OBUF`: its bytes at the output cursor. -/
theorem readByte_matchItem {bytes len : Nat} (p : Pos) {s : State} (hfits : s.lz.op + len ≤ s.cfg.obufCap) {a : Nat}
    (ha : a < len) : (Lzd.copy len p s.lzd).2[a]? = some ((matchItem bytes len p s).readByte .obuf (s.lz.op + a)) := by
  have hlen := Lzd.copy_length len p s.lzd
  rw [matchItem_eq_produced p hfits, State.readByte_produced, dif_pos ⟨by omega, by omega⟩,
    List.getElem?_eq_some_iff]
  exact ⟨by omega, by simp⟩

theorem readByte_matchItem_outside {bytes len : Nat} (p : Pos) {s : State} (hfits : s.lz.op + len ≤ s.cfg.obufCap)
    {a : Nat} (ha : a < s.lz.op ∨ s.lz.op + len ≤ a) :
    (matchItem bytes len p s).readByte .obuf a = s.readByte .obuf a := by
  rw [matchItem_eq_produced p hfits, State.readByte_produced, dif_neg]
  rw [Lzd.copy_length]
  omega

/-- Settles O39: a match that fits is an output of its copy, and the ring and `OBUF` take the same bytes. -/
theorem matchResult : Obligations.MatchResult := by
  intro s p he i bytes len hform hfits
  have hexec : exec i s = .next (matchItem bytes len p s) ∧ len ≤ 4096 := by
    rcases hform with ⟨lc, rfl, rfl, rfl⟩ | ⟨ext, rfl, rfl, rfl⟩
    · exact ⟨congrArg Host.Outcome.next (whenReady_ready _ s he), by have := lc.isLt; omega⟩
    · exact ⟨congrArg Host.Outcome.next (whenReady_ready _ s he), by have := ext.isLt; omega⟩
  obtain ⟨hexec, hlen⟩ := hexec
  have hout := matchItem_eq_produced (bytes := bytes) p hfits
  have hread {a : Nat} (ha : a < len) := readByte_matchItem (bytes := bytes) p hfits ha
  have hring : (matchItem bytes len p s).lzd = s.lzd.pushes (Lzd.copy len p s.lzd).2 := by
    rw [hout, State.lzd_produced, Lzd.copy_ring]
  have hcount := Lzd.copy_length len p s.lzd
  refine ⟨_, hexec, ?_, fun a ha => ?_, fun a => readByte_matchItem_outside p hfits, fun q => ?_, ?_, ?_⟩
  · rw [hout]
    rfl
  · have hbyte := hread ha
    rw [Lzd.copy_getElem?_of_source p s.lzd ha hlen, Option.some.injEq] at hbyte
    rw [← hbyte]
    refine if_ctx_congr Iff.rfl (fun hsource => ?_) fun _ => rfl
    rw [hread (hsource.trans ha)]
    rfl
  · rw [hring, Lzd.get_pushes _ (by omega)]
    split
    · next hq =>
      rw [hread hq]
      rfl
    · next hq => rw [List.getElem?_eq_none (by omega), Option.getD_none]
  · rw [hring, Lzd.dr_pushes, hcount]
  · rw [hout]
    rfl

/-! ## The stream that a compression emits (R94, R151, R152) -/

/-- A match token of at least three bytes is none of the items that stand for something else (R97, R99). -/
theorem tokenProper_matchToken {len : Nat} (h : 3 ≤ len) (pos : Pos) : tokenProper (matchToken len pos) = true := by
  unfold matchToken
  split
  · rfl
  · have hne : BitVec.ofNat 4 (len - 3) ≠ 15#4 := fun heq => by
      have hcode := congrArg BitVec.toNat heq
      rw [BitVec.toNat_ofNat, BitVec.toNat_ofNat] at hcode
      omega
    simpa [tokenProper] using hne

theorem tokenKind_matchToken (len : Nat) (pos : Pos) : tokenKind (matchToken len pos) = 1 := by
  unfold matchToken
  split <;> rfl

/-- One turn of the loop records the next of the input's tokens, and goes on past the bytes that the token takes. -/
theorem Comp.token_eq (c : Comp) (fuel : Nat) (b : Byte) (rest : List Byte) :
    ∃ (n : Nat) (t : LzToken), tokenProper t = true ∧
      c.token (b :: rest) =
        (n, (c.put ((b :: rest).take n)).record (decide (tokenKind t = 1)) t.bytes) ∧
      Lzc.tokens (fuel + 1) c.lzc (b :: rest) =
        t :: Lzc.tokens fuel (c.lzc.putBytes ((b :: rest).take n)) ((b :: rest).drop n) := by
  rw [Comp.token, Lzc.tokens]
  by_cases hlen : 3 ≤ (c.lzc.findMatch (b :: rest)).1
  · rw [if_pos hlen, if_pos hlen]
    exact ⟨_, _, tokenProper_matchToken hlen _, by rw [tokenKind_matchToken]; rfl, rfl⟩
  · rw [if_neg hlen, if_neg hlen]
    exact ⟨1, .lit b, rfl, rfl, rfl⟩

theorem controlBits_lt (group : List LzToken) : controlBits group < 2 ^ group.length := by
  induction group with
  | nil => exact Nat.one_pos
  | cons t rest ih =>
    have := tokenKind_le t
    rw [controlBits, List.length_cons, pow_succ]
    omega

theorem controlBits_concat (group : List LzToken) (t : LzToken) :
    controlBits (group ++ [t]) = 2 ^ group.length * tokenKind t + controlBits group := by
  induction group with
  | nil => simp [controlBits]
  | cons u rest ih =>
    rw [List.cons_append, controlBits, ih, controlBits, List.length_cons, pow_succ]
    ring

/-- A compression's control byte is its bits alone. -/
theorem controlByte_zero (group : List LzToken) : controlByte 0 group = BitVec.ofNat 8 (controlBits group) := by
  rw [controlByte, Nat.mul_zero, Nat.add_zero]

/-- A match sets its bit of the pending control byte, a literal leaves it 0 (R151). -/
theorem controlByte_concat {group : List LzToken} (h : group.length < 8) (t : LzToken) :
    (if decide (tokenKind t = 1) then controlByte 0 group ||| 1#8 <<< group.length else controlByte 0 group) =
      controlByte 0 (group ++ [t]) := by
  have hmark : ∀ i : Nat, i < 8 → 1#8 <<< i = BitVec.ofNat 8 (2 ^ i) := by decide
  have hkind := tokenKind_le t
  rw [controlByte_zero, controlByte_zero, controlBits_concat]
  by_cases hmatch : tokenKind t = 1
  · rw [if_pos (decide_eq_true hmatch), hmatch, hmark _ h, Nat.two_pow_add_eq_or_of_lt (controlBits_lt group),
      Nat.mul_one, BitVec.ofNat_or, BitVec.or_comm]
  · rw [if_neg (by simpa using hmatch), show tokenKind t = 0 by omega, Nat.mul_zero, Nat.zero_add]

/-- The pending group of a compression is these tokens. -/
structure Comp.Pending (c : Comp) (group : List LzToken) : Prop where
  /-- the group is not full -/
  room : group.length < 8
  /-- the marker is at the next token's place -/
  mask : c.mask = 1#8 <<< group.length
  /-- the control byte so far -/
  ctl : c.ctl = controlByte 0 group
  /-- the token bytes so far -/
  toks : c.toks = group.flatMap LzToken.bytes

theorem Comp.pending_start (l : Lzc) : (Comp.start l).Pending [] := ⟨by decide, rfl, rfl, rfl⟩

section
variable {c : Comp} {group : List LzToken}

theorem Comp.Pending.put (h : c.Pending group) (bytes : List Byte) : (c.put bytes).Pending group :=
  ⟨h.room, h.mask, h.ctl, h.toks⟩

/-- A token joins the pending group; the eighth flushes it, control byte first. -/
theorem Comp.Pending.record (h : c.Pending group) (t : LzToken) :
    if group.length = 7 then
      (c.record (decide (tokenKind t = 1)) t.bytes).Pending [] ∧
        (c.record (decide (tokenKind t = 1)) t.bytes).out =
          c.out ++ controlByte 0 (group ++ [t]) :: (group ++ [t]).flatMap LzToken.bytes
    else
      (c.record (decide (tokenKind t = 1)) t.bytes).Pending (group ++ [t]) ∧
        (c.record (decide (tokenKind t = 1)) t.bytes).out = c.out := by
  obtain ⟨hroom, hmask, hctl, htoks⟩ := h
  have hlast : ∀ i : Nat, i < 8 → ((1#8 <<< i) <<< 1 = 0#8 ↔ i = 7) := by decide
  have hmove : ∀ i : Nat, i < 8 → (1#8 <<< i) <<< 1 = 1#8 <<< (i + 1) := by decide
  have hbytes : c.toks ++ t.bytes = (group ++ [t]).flatMap LzToken.bytes := by simp [htoks]
  have hlen : (group ++ [t]).length = group.length + 1 := by rw [List.length_append]; rfl
  unfold Comp.record
  simp only [hmask, hctl, controlByte_concat hroom, hbytes, hlast _ hroom]
  split
  · exact ⟨⟨by decide, rfl, rfl, rfl⟩, rfl⟩
  · exact ⟨⟨by omega, by rw [hmove _ hroom, hlen], rfl, rfl⟩, rfl⟩

theorem streamBytes_nil (fuel : Nat) : streamBytes fuel [] = [] := by
  cases fuel <;> rfl

/-- A full group at the front of a stream. -/
theorem streamBytes_group (fuel : Nat) (hfull : group.length = 8) (ts : List LzToken) :
    streamBytes (fuel + 1) (group ++ ts) =
      controlByte 0 group :: (group.flatMap LzToken.bytes ++ streamBytes fuel ts) := by
  cases group with
  | nil => cases hfull
  | cons t rest =>
    have htake : ((t :: rest) ++ ts).take 8 = t :: rest := by rw [← hfull, List.take_left]
    have hdrop : ((t :: rest) ++ ts).drop 8 = ts := by rw [← hfull, List.drop_left]
    rw [List.cons_append] at htake hdrop ⊢
    rw [streamBytes, streamWithSpare, htake, hdrop, streamBytes]

/-- At the end of the input the pending group is the last one of the stream (conflict C4). -/
theorem Comp.Pending.flushed (h : c.Pending group) {fuel : Nat} (hfuel : group.length ≤ fuel) :
    c.flushed = c.out ++ streamBytes fuel group := by
  obtain ⟨hroom, hmask, hctl, htoks⟩ := h
  have hfirst : ∀ i : Nat, i < 8 → (1#8 <<< i = 1#8 ↔ i = 0) := by decide
  unfold Comp.flushed
  simp only [hmask, hfirst _ hroom, hctl, htoks, List.length_eq_zero_iff]
  split
  · next hnil => rw [hnil, streamBytes_nil, List.append_nil]
  · next hne =>
    obtain ⟨t, rest, rfl⟩ := List.exists_cons_of_ne_nil hne
    cases fuel with
    | zero => cases hfuel
    | succ fuel =>
      have hdrop : (t :: rest).drop 8 = [] := List.drop_eq_nil_of_le hroom.le
      have hlast := streamBytes_nil fuel
      rw [streamBytes] at hlast
      rw [streamBytes, streamWithSpare, List.take_of_length_le hroom.le, hdrop, hlast, List.append_nil]

/-- What the loop emits from a pending group on is the stream of that group and of the input's tokens. -/
theorem Comp.Pending.flushed_loop (fuel : Nat) (inp : List Byte) {groups : Nat} (h : c.Pending group)
    (hgroups : group.length + fuel ≤ groups) :
    (Comp.loop fuel inp c).flushed = c.out ++ streamBytes groups (group ++ Lzc.tokens fuel c.lzc inp) := by
  induction fuel generalizing inp c group groups with
  | zero => simpa [Comp.loop, Lzc.tokens] using h.flushed hgroups
  | succ fuel ih =>
    cases inp with
    | nil => simpa [Comp.loop, Lzc.tokens] using h.flushed (fuel := groups) (by omega)
    | cons b rest =>
      obtain ⟨n, t, -, htoken, htokens⟩ := c.token_eq fuel b rest
      have hrecord := (h.put ((b :: rest).take n)).record t
      rw [Comp.loop, htoken, htokens, List.append_cons]
      generalize hc : (c.put ((b :: rest).take n)).record (decide (tokenKind t = 1)) t.bytes = c' at hrecord
      have hlzc : c'.lzc = c.lzc.putBytes ((b :: rest).take n) := by rw [← hc, Comp.lzc_record]; rfl
      have hput : (c.put ((b :: rest).take n)).out = c.out := rfl
      rw [hput] at hrecord
      split at hrecord
      · next hfull =>
        obtain ⟨hpending, hout⟩ := hrecord
        have hlen : (group ++ [t]).length = 8 := by simp [hfull]
        obtain ⟨groups, rfl⟩ : ∃ k, groups = k + 1 := ⟨groups - 1, by omega⟩
        rw [ih _ hpending (groups := groups) (by simp only [List.length_nil]; omega), hout, hlzc,
          streamBytes_group groups hlen]
        simp
      · obtain ⟨hpending, hout⟩ := hrecord
        rw [ih _ hpending (groups := groups) (by simp only [List.length_append, List.length_singleton]; omega), hout,
          hlzc]

end

theorem tokenProper_of_mem_tokens (fuel : Nat) (l : Lzc) (inp : List Byte) :
    ∀ t ∈ Lzc.tokens fuel l inp, tokenProper t = true := by
  induction fuel generalizing l inp with
  | zero => exact fun _ h => nomatch h
  | succ fuel ih =>
    cases inp with
    | nil => exact fun _ h => nomatch h
    | cons b rest =>
      obtain ⟨n, t, ht, -, htokens⟩ := (Comp.start l).token_eq fuel b rest
      have hl : (Comp.start l).lzc = l := rfl
      rw [hl] at htokens
      rw [htokens]
      exact List.forall_mem_cons.mpr ⟨ht, ih _ _⟩

/-- Settles O28: each turn of the loop records the next token in the pending group. -/
theorem compressEmitsItsTokens : Obligations.CompressEmitsItsTokens := fun l inp =>
  ⟨((Comp.pending_start l).flushed_loop inp.length inp (groups := inp.length) (Nat.zero_add _).le),
    tokenProper_of_mem_tokens inp.length l inp⟩

/-! ## The decoder's place in a coded pool (R193, R199) -/

/-- The cursor at a bit of the stream. -/
def cursorAt (pos : Nat) : BitCursor := ⟨pos / 8, pos % 8⟩

theorem cursorAt_bit_lt (pos : Nat) : (cursorAt pos).bit < 8 := Nat.mod_lt _ (by decide)

theorem cursorAt_pos (pos : Nat) : 8 * (cursorAt pos).bp + (cursorAt pos).bit = pos := Nat.div_add_mod pos 8

theorem advance_cursorAt (pos n : Nat) : (cursorAt pos).advance n = cursorAt (pos + n) := by
  simp only [BitCursor.advance, cursorAt, BitCursor.mk.injEq]
  omega

/-- Bits stand in the pool from a position on, with four readable bytes from the byte where they end (R203). -/
structure PaddedAt (pool : Nat → Byte) (len pos : Nat) (bits : List Bool) : Prop where
  /-- the bits -/
  written : WrittenAt pool (cursorAt pos) bits
  /-- the padding -/
  room : (pos + bits.length) / 8 + 4 ≤ len

theorem paddedAt_append {pool : Nat → Byte} {len pos : Nat} {a b : List Bool} (h : PaddedAt pool len pos (a ++ b)) :
    PaddedAt pool len pos a ∧ PaddedAt pool len (pos + a.length) b := by
  obtain ⟨hwritten, hroom⟩ := h
  rw [List.length_append] at hroom
  rw [writtenAt_append, advance_cursorAt] at hwritten
  obtain ⟨ha, hb⟩ := hwritten
  exact ⟨⟨ha, by omega⟩, hb, by omega⟩

/-- The transient values of a decoder where an encoder stands. -/
def GrContext.cursor (c : GrContext) (i lim : Nat) (zero : Bool) (run : Nat) : GrCursor where
  i := i
  lim := lim
  cur := cursorAt c.pos
  n := c.n
  a := c.a
  zero := zero
  run := run

/-! ## Residuals written one after another (R195, R200) -/

/-- `PutPix` of each residual, from word `i` on. -/
def putResiduals : List Byte → Nat → State → State
  | [], _, s => s
  | e :: es, i, s => putResiduals es (i + 1) (putPix i e s)

theorem putZeros_eq_putResiduals (n i : Nat) (s : State) :
    putZeros n i s = putResiduals (List.replicate n 0#8) i s := by
  induction n generalizing i s with
  | zero => rfl
  | succ n ih => rw [putZeros, ih, List.replicate_succ, putResiduals]

theorem putResiduals_append (es fs : List Byte) (i : Nat) (s : State) :
    putResiduals (es ++ fs) i s = putResiduals fs (i + es.length) (putResiduals es i s) := by
  induction es generalizing i s with
  | nil => rfl
  | cons e es ih =>
    rw [List.cons_append, putResiduals, ih, putResiduals, List.length_cons, Nat.add_assoc, Nat.add_comm 1]

theorem putPix_setGr (i : Nat) (e : Byte) (s : State) (g : GrCursor) :
    putPix i e (s.setGr g) = (putPix i e s).setGr g := by
  unfold putPix
  rw [State.x_setGr]
  split <;> rfl

theorem putResiduals_setGr (es : List Byte) (i : Nat) (s : State) (g : GrCursor) :
    putResiduals es i (s.setGr g) = (putResiduals es i s).setGr g := by
  induction es generalizing i s with
  | nil => rfl
  | cons e es ih => rw [putResiduals, putPix_setGr, ih, putResiduals]

/-- Residuals change `PIX` and nothing else. -/
theorem putResiduals_frame (es : List Byte) (i : Nat) (s : State) :
    ∃ m : Memory, putResiduals es i s = s.setPix m := by
  induction es generalizing i s with
  | nil => exact ⟨s.pix, by simp [putResiduals]⟩
  | cons e es ih =>
    obtain ⟨m, hm⟩ := putPix_frame i e s
    obtain ⟨m', hm'⟩ := ih (i + 1) (putPix i e s)
    exact ⟨m', by rw [putResiduals, hm', hm, State.setPix_setPix]⟩

/-- The state after some codes: their residuals from the next pixel on, and the transient values from then on. -/
def State.decoded (s : State) (es : List Byte) (g : GrCursor) : State := (putResiduals es s.gr.i s).setGr g

@[simp] theorem State.gr_decoded (s : State) (es : List Byte) (g : GrCursor) : (s.decoded es g).gr = g := rfl

theorem State.decoded_frame (s : State) (es : List Byte) (g : GrCursor) :
    ∃ m : Memory, s.decoded es g = (s.setPix m).setGr g := by
  obtain ⟨m, hm⟩ := putResiduals_frame es s.gr.i s
  exact ⟨m, by rw [State.decoded, hm]⟩

theorem State.decoded_decoded (s : State) (es fs : List Byte) {g : GrCursor} (g' : GrCursor)
    (h : g.i = s.gr.i + es.length) : (s.decoded es g).decoded fs g' = s.decoded (es ++ fs) g' := by
  rw [State.decoded, State.gr_decoded, State.decoded, putResiduals_setGr, State.setGr_setGr, State.decoded,
    putResiduals_append, h]

/-! ## The codes of a well-formed pool (R102 to R105) -/

theorem runIndex_lt {cs : List Nat} {a : Nat} (h : a < cs.sum) (i : Nat) : runIndex cs a i < i + cs.length := by
  induction cs generalizing a i with
  | nil => exact absurd h (Nat.not_lt_zero a)
  | cons c cs ih =>
    rw [List.sum_cons] at h
    rw [runIndex, List.length_cons]
    split
    · omega
    · have := ih (a := a - c) (by omega) (i + 1)
      omega

/-- The Golomb parameter is at most 8 (R191). -/
theorem gbl_le {a : Nat} (h : a < 1024) (n : Nat) : gbl a n ≤ 8 := by
  have hrow : (gc n).sum = 1024 ∧ (gc n).length = 9 := by
    unfold gc
    split <;> decide
  have := runIndex_lt (hrow.1.symm ▸ h) 0
  rw [hrow.2] at this
  exact Nat.le_of_lt_succ (by simpa [gbl] using this)

theorem length_countBits (n : Nat) : (countBits n).length = 2 * Nat.log2 n + 1 := by
  simp only [countBits, GrCode.bits, List.length_append, List.length_replicate, List.length_cons, length_lsbBits]
  omega

/-- A count standing in the pool is fetched as its run length. -/
theorem gammaAt_of_countBits {pool : Nat → Byte} {len pos n : Nat} (hpos : 0 < n) (hn : n ≤ 2 ^ 24)
    (h : PaddedAt pool len pos (countBits n)) : gammaAt pool len (cursorAt pos) =
      .ok (.gamma (Nat.log2 n) (n - 2 ^ Nat.log2 n), cursorAt (pos + (countBits n).length)) := by
  have hlow : 2 ^ Nat.log2 n ≤ n := Nat.log2_self_le hpos.ne'
  have hhigh : n < 2 ^ (Nat.log2 n + 1) := Nat.lt_log2_self
  have hz : Nat.log2 n ≤ 24 := (Nat.pow_le_pow_iff_right (by decide)).mp (hlow.trans hn)
  obtain ⟨hwritten, hroom⟩ := h
  rw [pow_succ] at hhigh
  rw [length_countBits] at hroom
  rw [gammaCodesRoundTrip pool len (cursorAt pos) (Nat.log2 n) (n - 2 ^ Nat.log2 n) (cursorAt_bit_lt pos) hz (by omega)
    (fun j hj => hwritten j (by rwa [length_countBits])) (by rwa [cursorAt_pos]), advance_cursorAt, length_countBits]

/-- The cursor after a residual in the long form: past the window of zeros, the quotient byte and the remainder. -/
theorem advance_golombx (pos k : Nat) : BitCursor.advance ⟨(cursorAt pos).bp + 5, 0⟩ k =
    cursorAt (pos + (32 - pos % 8 + 8 + k)) := by
  simp only [BitCursor.advance, cursorAt, BitCursor.mk.injEq]
  omega

/-- A raw value that has a code stands in the pool in the normal form or in the long form. -/
theorem residualCode_cases {c : GrContext} {v : Nat} (hv : c.encodes v = true) :
    c.a < 1024 ∧
    ((v / 2 ^ gbl c.a c.n ≤ 31 - c.pos % 8 ∧
        residualCode (c.pos % 8) (gbl c.a c.n) v = .golomb (v / 2 ^ gbl c.a c.n) (v % 2 ^ gbl c.a c.n) ∧
        (c.bitsOf v).length = v / 2 ^ gbl c.a c.n + 1 + gbl c.a c.n) ∨
      ∃ q : Byte, q.toNat = v / 2 ^ gbl c.a c.n ∧
        residualCode (c.pos % 8) (gbl c.a c.n) v = .golombx q (v % 2 ^ gbl c.a c.n) ∧
        (c.bitsOf v).length = 32 - c.pos % 8 + 8 + gbl c.a c.n) := by
  simp only [GrContext.encodes, Bool.and_eq_true, decide_eq_true_eq] at hv
  obtain ⟨ha, hq⟩ := hv
  refine ⟨ha, ?_⟩
  simp only [GrContext.bitsOf, residualCode]
  split
  · next hshort =>
    refine .inl ⟨hshort, rfl, ?_⟩
    simp only [GrCode.bits, List.length_append, List.length_replicate, List.length_cons, length_lsbBits]
    omega
  · refine .inr ⟨_, ?_, rfl, ?_⟩
    · rw [BitVec.toNat_ofNat]
      omega
    · simp only [GrCode.bits, List.length_append, List.length_replicate, length_lsbBits]

/-- A raw value standing in the pool is fetched as its residual code. -/
theorem valueAt_of_bitsOf {pool : Nat → Byte} {len v : Nat} {c : GrContext} (hv : c.encodes v = true)
    (h : PaddedAt pool len c.pos (c.bitsOf v)) : ∃ next : BitCursor,
      valueAt pool len (gbl c.a c.n) (cursorAt c.pos) = .ok (residualCode (c.pos % 8) (gbl c.a c.n) v, next) := by
  obtain ⟨ha, hcases⟩ := residualCode_cases hv
  obtain ⟨hwritten, hroom⟩ := h
  have hk := gbl_le ha c.n
  have hr : v % 2 ^ gbl c.a c.n < 2 ^ gbl c.a c.n := Nat.mod_lt _ (Nat.two_pow_pos _)
  rw [← cursorAt_pos c.pos] at hroom
  rw [GrContext.bitsOf] at hwritten
  rcases hcases with ⟨hshort, hcode, hlen⟩ | ⟨q, -, hcode, hlen⟩
  all_goals
    rw [hcode] at hwritten ⊢
    rw [hlen] at hroom
  · exact ⟨_, valueAt_of_golomb_written (cursorAt_bit_lt _) hk hr hshort hwritten hroom⟩
  · exact ⟨_, valueAt_of_golombx_written (cursorAt_bit_lt _) hk hr hwritten hroom⟩

/-- Its code takes the residual, and the cursor goes past its bits. -/
theorem runCode_residualCode {s : State} {c : GrContext} {v : Nat} (hv : c.encodes v = true)
    (hcur : s.gr.cur = cursorAt c.pos) (hn : s.gr.n = c.n) (ha : s.gr.a = c.a) :
    runCode (residualCode (c.pos % 8) (gbl c.a c.n) v) s =
      takeResidual v (cursorAt (c.pos + (c.bitsOf v).length)) s := by
  obtain ⟨hlt, hcases⟩ := residualCode_cases hv
  have hin : ¬1024 ≤ s.gr.a := by omega
  have hparam : s.golombParam = gbl c.a c.n := by rw [State.golombParam, ha, hn]
  have hvalue := Nat.div_add_mod' v (2 ^ gbl c.a c.n)
  rcases hcases with ⟨-, hcode, hlen⟩ | ⟨q, hq, hcode, hlen⟩ <;> rw [hcode, hlen]
  · rw [runCode, golombCode, if_neg hin, hparam, hvalue, hcur, advance_cursorAt]
  · rw [runCode, golombxCode, if_neg hin, hparam, hq, hvalue, hcur, advance_golombx]

/-- Adapting, counting and moving on lead to the encoder's next context (R199). -/
theorem adapt_countOne_cursor (c : GrContext) (v len i lim run : Nat) (zero : Bool) :
    { ((c.cursor i lim zero (run + 1)).adapt v).countOne with cur := cursorAt (c.pos + len) } =
      (c.after v len).cursor (i + 1) lim (if run = 0 then true else zero) run := by
  have hlast : run + 1 ≤ 1 ↔ run = 0 := by omega
  by_cases hn : c.n = 0 <;> by_cases hrun : run = 0 <;>
    simp [GrContext.cursor, GrCursor.adapt, GrCursor.countOne, GrContext.after, hn, hrun]

/-- The move that a raw value is. -/
theorem grMicro_of_value {s : State} {c : GrContext} {v i lim run : Nat} {zero : Bool}
    (hg : s.gr = c.cursor i lim zero (run + 1)) (hv : c.encodes v = true)
    (h : PaddedAt s.poolByte s.poolLen c.pos (c.bitsOf v)) :
    grMicro s = s.decoded [signMap s.cfg.evenPositive v]
      ((c.after v (c.bitsOf v).length).cursor (i + 1) lim (if run = 0 then true else zero) run) := by
  obtain ⟨next, hnext⟩ := valueAt_of_bitsOf hv h
  obtain ⟨ha, -⟩ := residualCode_cases hv
  have hin : ¬1024 ≤ s.gr.a := by
    rw [hg]
    exact Nat.not_le.mpr ha
  have hrun : s.gr.run ≠ 0 := by
    rw [hg]
    exact Nat.succ_ne_zero run
  have hfetch : grFetch s = .code (residualCode (c.pos % 8) (gbl c.a c.n) v) := by
    have hparam : s.golombParam = gbl c.a c.n := by
      rw [State.golombParam, hg]
      rfl
    have hcur : s.gr.cur = cursorAt c.pos := by
      rw [hg]
      rfl
    rw [grFetch, if_neg hrun, if_neg hin, hparam, hcur, hnext]
  rw [grMicro, hfetch, ← adapt_countOne_cursor c v]
  simp only
  rw [runCode_residualCode hv (by rw [hg]; rfl) (by rw [hg]; rfl) (by rw [hg]; rfl), takeResidual, ← hg]
  rfl

/-- The move that a run's count is: a zero run is written, a non-zero run begins (R195). -/
theorem grMicro_of_count {s : State} {c : GrContext} {n i lim : Nat} {zero : Bool}
    (hg : s.gr = c.cursor i lim zero 0) (hpos : 0 < n) (hfits : i + n ≤ lim) (hlim : lim ≤ 2 ^ 24)
    (h : PaddedAt s.poolByte s.poolLen c.pos (countBits n)) :
    grMicro s = if zero then s.decoded (List.replicate n 0#8) ((c.afterCount n).cursor (i + n) lim false 0)
      else s.decoded [] ((c.afterCount n).cursor i lim false n) := by
  have hlow : 2 ^ Nat.log2 n ≤ n := Nat.log2_self_le hpos.ne'
  have hhigh : n < 2 ^ (Nat.log2 n + 1) := Nat.lt_log2_self
  have hz : Nat.log2 n ≤ 24 := (Nat.pow_le_pow_iff_right (by decide)).mp (hlow.trans (by omega))
  have hsum : 2 ^ Nat.log2 n + (n - 2 ^ Nat.log2 n) = n := by omega
  have hrun : s.gr.run = 0 := by
    rw [hg]
    rfl
  have hleft : ¬s.gr.lim ≤ s.gr.i := by
    rw [hg]
    show ¬lim ≤ i
    omega
  have hfetch : grFetch s = .code (.gamma (Nat.log2 n) (n - 2 ^ Nat.log2 n)) := by
    have hcur : s.gr.cur = cursorAt c.pos := by
      rw [hg]
      rfl
    rw [grFetch, if_pos hrun, if_neg hleft, hcur, gammaAt_of_countBits hpos (by omega) h]
  have hroom : ¬(25 ≤ Nat.log2 n ∨ s.gr.i + (2 ^ Nat.log2 n + (n - 2 ^ Nat.log2 n)) > s.gr.lim) := by
    rw [hg, hsum]
    show ¬(25 ≤ Nat.log2 n ∨ i + n > lim)
    omega
  have hcursor : s.gr.cur.advance (2 * Nat.log2 n + 1) = cursorAt (c.pos + (countBits n).length) := by
    rw [hg, length_countBits]
    exact advance_cursorAt _ _
  rw [grMicro, hfetch]
  simp only [runCode]
  rw [gammaCode, if_neg hroom, hcursor, hsum, putZeros_eq_putResiduals]
  cases zero <;> simp [hg, State.decoded, GrContext.cursor, GrContext.afterCount, putResiduals]

/-! ## Whole runs (R102, R192) -/

/-- Codes leave the pool, the registers, the phase and the configuration as they are. -/
theorem poolByte_decoded (s : State) (es : List Byte) (g : GrCursor) : (s.decoded es g).poolByte = s.poolByte := by
  obtain ⟨m, hm⟩ := s.decoded_frame es g
  rw [hm]
  rfl

theorem poolLen_decoded (s : State) (es : List Byte) (g : GrCursor) : (s.decoded es g).poolLen = s.poolLen := by
  obtain ⟨m, hm⟩ := s.decoded_frame es g
  rw [hm]
  rfl

theorem phase_decoded (s : State) (es : List Byte) (g : GrCursor) : (s.decoded es g).phase = s.phase := by
  obtain ⟨m, hm⟩ := s.decoded_frame es g
  rw [hm]
  rfl

theorem cfg_decoded (s : State) (es : List Byte) (g : GrCursor) : (s.decoded es g).cfg = s.cfg := by
  obtain ⟨m, hm⟩ := s.decoded_frame es g
  rw [hm]
  rfl

theorem pos_after (c : GrContext) (v len : Nat) : (c.after v len).pos = c.pos + len := by
  unfold GrContext.after
  split <;> rfl

/-- The raw values of a run, one after another. -/
theorem moves_of_values (v : Nat) (vs : List Nat) {s : State} {c : GrContext} {i lim : Nat}
    (hp : s.phase = .grDec) (hg : s.gr = c.cursor i lim false (vs.length + 1)) (hv : c.encodesAll (v :: vs) = true)
    (h : PaddedAt s.poolByte s.poolLen c.pos (c.encodeValues (v :: vs)).1) :
    Moves .grDec grMicro s (s.decoded ((v :: vs).map (signMap s.cfg.evenPositive))
      ((c.encodeValues (v :: vs)).2.cursor (i + (v :: vs).length) lim true 0)) := by
  induction vs generalizing v s c i with
  | nil =>
    simp only [GrContext.encodesAll, Bool.and_true] at hv
    simp only [GrContext.encodeValues, List.append_nil] at h
    have hmove := Moves.single (micro := grMicro) hp
    rw [grMicro_of_value hg hv h] at hmove
    exact hmove
  | cons w vs ih =>
    rw [GrContext.encodesAll, Bool.and_eq_true] at hv
    obtain ⟨hfirst, hrest⟩ := hv
    rw [GrContext.encodeValues] at h ⊢
    obtain ⟨hhere, hthere⟩ := paddedAt_append h
    have hmove := Moves.single (micro := grMicro) hp
    rw [grMicro_of_value hg hfirst hhere, if_neg (by simp)] at hmove
    have hmoves := ih w (s := s.decoded [signMap s.cfg.evenPositive v]
        ((c.after v (c.bitsOf v).length).cursor (i + 1) lim false (vs.length + 1)))
      (by rw [phase_decoded, hp]) rfl hrest (by rwa [poolByte_decoded, poolLen_decoded, pos_after])
    rw [State.decoded_decoded _ _ _ _ (by rw [hg]; rfl), cfg_decoded] at hmoves
    have hcount : i + (v :: w :: vs).length = i + 1 + (w :: vs).length := by simp only [List.length_cons]; omega
    rw [hcount]
    exact hmove.trans hmoves

/-- The residuals of a run. -/
def GrRun.bytes (evenPositive : Bool) : GrRun → List Byte
  | .zeros n => List.replicate n 0#8
  | .values vs => vs.map (signMap evenPositive)

theorem residuals_cons (evenPositive : Bool) (r : GrRun) (rs : List GrRun) :
    residuals evenPositive (r :: rs) = r.bytes evenPositive ++ residuals evenPositive rs := by
  cases r <;> rfl

theorem length_bytes (evenPositive : Bool) (r : GrRun) : (r.bytes evenPositive).length = r.count := by
  cases r <;> simp [GrRun.bytes, GrRun.count]

/-- A run: its count, and in a non-zero run its raw values. -/
theorem moves_of_run {r : GrRun} {s : State} {c : GrContext} {i lim : Nat} {zero : Bool} (hp : s.phase = .grDec)
    (hg : s.gr = c.cursor i lim zero 0) (hkind : alternates zero [r] = true) (hcodes : c.encodesRuns [r] = true)
    (hfits : i + r.count ≤ lim) (hlim : lim ≤ 2 ^ 24) (h : PaddedAt s.poolByte s.poolLen c.pos (c.encodeRun r).1) :
    Moves .grDec grMicro s (s.decoded (r.bytes s.cfg.evenPositive)
      ((c.encodeRun r).2.cursor (i + r.count) lim (!zero) 0)) := by
  have hmove := Moves.single (micro := grMicro) hp
  cases r with
  | zeros n =>
    cases zero with
    | false => cases hkind
    | true =>
      have hpos : 0 < n := by simpa [alternates] using hkind
      rw [grMicro_of_count hg hpos hfits hlim h] at hmove
      exact hmove
  | values vs =>
    cases zero with
    | true => cases hkind
    | false =>
      cases vs with
      | nil => cases hkind
      | cons v vs =>
        have hall : (c.afterCount (v :: vs).length).encodesAll (v :: vs) = true := by
          simpa [GrContext.encodesRuns] using hcodes
        obtain ⟨hcount, hvalues⟩ := paddedAt_append h
        rw [grMicro_of_count hg (Nat.succ_pos _) hfits hlim hcount] at hmove
        have hmoves := moves_of_values v vs (s := s.decoded [] ((c.afterCount (v :: vs).length).cursor i lim false
          (v :: vs).length)) (by rw [phase_decoded, hp]) rfl hall (by rwa [poolByte_decoded, poolLen_decoded])
        rw [State.decoded_decoded _ _ _ _ (by rw [hg]; rfl), cfg_decoded] at hmoves
        exact hmove.trans hmoves

theorem alternates_cons {zero : Bool} {r : GrRun} {rs : List GrRun} (h : alternates zero (r :: rs) = true) :
    alternates zero [r] = true ∧ alternates (!zero) rs = true := by
  cases zero <;> cases r <;> simp_all [alternates]

theorem encodesRuns_cons {c : GrContext} {r : GrRun} {rs : List GrRun} (h : c.encodesRuns (r :: rs) = true) :
    c.encodesRuns [r] = true ∧ (c.encodeRun r).2.encodesRuns rs = true := by
  cases r <;> simp_all [GrContext.encodesRuns]

/-- An encoder gets on by the bits it writes. -/
theorem encodeValues_pos (c : GrContext) (vs : List Nat) :
    (c.encodeValues vs).2.pos = c.pos + (c.encodeValues vs).1.length := by
  induction vs generalizing c with
  | nil => rfl
  | cons v vs ih =>
    rw [GrContext.encodeValues, ih, pos_after, List.length_append, Nat.add_assoc]

theorem encodeRun_pos (c : GrContext) (r : GrRun) : (c.encodeRun r).2.pos = c.pos + (c.encodeRun r).1.length := by
  cases r with
  | zeros n => rfl
  | values vs =>
    rw [GrContext.encodeRun, encodeValues_pos, List.length_append, ← Nat.add_assoc]
    rfl

/-- The runs of a pool, one after another. -/
theorem moves_of_runs (rs : List GrRun) {s : State} {c : GrContext} {i lim : Nat} {zero : Bool}
    (hp : s.phase = .grDec) (hg : s.gr = c.cursor i lim zero 0) (hkinds : alternates zero rs = true)
    (hcodes : c.encodesRuns rs = true) (hfits : i + (residuals s.cfg.evenPositive rs).length ≤ lim)
    (hlim : lim ≤ 2 ^ 24) (h : PaddedAt s.poolByte s.poolLen c.pos (c.encodeRuns rs)) :
    ∃ g : GrCursor, g.i = i + (residuals s.cfg.evenPositive rs).length ∧ g.lim = lim ∧ g.run = 0 ∧
      Moves .grDec grMicro s (s.decoded (residuals s.cfg.evenPositive rs) g) := by
  induction rs generalizing s c i zero with
  | nil => exact ⟨s.gr, by rw [hg]; rfl, by rw [hg]; rfl, by rw [hg]; rfl, .refl⟩
  | cons r rs ih =>
    obtain ⟨hkind, hlater⟩ := alternates_cons hkinds
    obtain ⟨hcode, hcodes'⟩ := encodesRuns_cons hcodes
    obtain ⟨hhere, hthere⟩ := paddedAt_append h
    rw [residuals_cons, List.length_append, length_bytes] at hfits ⊢
    have hmoves := moves_of_run hp hg hkind hcode (by omega) hlim hhere
    obtain ⟨g, hi, hgl, hrun, hmoves'⟩ := ih (s := s.decoded (r.bytes s.cfg.evenPositive)
        ((c.encodeRun r).2.cursor (i + r.count) lim (!zero) 0)) (by rw [phase_decoded, hp]) rfl hlater hcodes'
      (by rw [cfg_decoded]; omega) (by rwa [poolByte_decoded, poolLen_decoded, encodeRun_pos])
    rw [cfg_decoded] at hi hmoves'
    rw [State.decoded_decoded _ _ _ _ (by rw [hg, length_bytes]; rfl)] at hmoves'
    exact ⟨g, by omega, hgl, hrun, hmoves.trans hmoves'⟩

/-! ## The pixels written (R200) -/

/-- A word is its four lanes. -/
theorem pack_lanes (w : Word) : pack (lane w 0) (lane w 1) (lane w 2) (lane w 3) = w := by
  refine BitVec.eq_of_getLsbD_eq fun j hj => ?_
  rw [getLsbD_pack]
  simp only [lane, BitVec.getLsbD_extractLsb']
  split_ifs <;> simp <;> grind

/-- A word just written reads as what was written. -/
theorem readPixWord_writePixWord (s : State) (i : Nat) (v : Word) : (s.writePixWord i v).readPixWord i = v := by
  have hlane (k : Nat) (hk : k < 4) : (s.writePixWord i v).readByte .pix (4 * i + k) = lane v k := by
    rw [State.readByte_writePixWord, if_pos (by omega), lane, show (4 * i + k) % 4 = k by omega]
  have hpack := pack_lanes v
  rw [← hlane 0 (by decide), ← hlane 1 (by decide), ← hlane 2 (by decide), ← hlane 3 (by decide)] at hpack
  exact hpack

theorem putResiduals_x (es : List Byte) (i : Nat) (s : State) : (putResiduals es i s).x = s.x := by
  obtain ⟨m, hm⟩ := putResiduals_frame es i s
  rw [hm, State.x_setPix]

/-- A pixel is written in its own word only. -/
theorem readByte_putPix_of_ne {s : State} (hchan : s.x.chan.toNat ≤ 3) {i a : Nat} (e : Byte) (ha : a / 4 ≠ i) :
    (putPix i e s).readByte .pix a = s.readByte .pix a := by
  unfold putPix
  split
  · rw [State.readByte_writePixWord, if_neg ha]
  · rw [State.writePixLane, State.readByte_writeByte, if_neg (by omega)]

/-- Residuals leave the words before them alone. -/
theorem readByte_putResiduals_before {s : State} (hchan : s.x.chan.toNat ≤ 3) (es : List Byte) {i a : Nat}
    (ha : a < 4 * i) : (putResiduals es i s).readByte .pix a = s.readByte .pix a := by
  induction es generalizing i s with
  | nil => rfl
  | cons e es ih =>
    rw [putResiduals, ih (by rwa [putPix_x]) (by omega), readByte_putPix_of_ne hchan e (by omega)]

/-- The target of residual `e` in word `i` holds it (R200). -/
def HoldsResidual (s : State) (i : Nat) (e : Byte) : Prop :=
  (s.x.first = 1#32 → s.readPixWord i = e.zeroExtend 32) ∧
    (s.x.first = 0#32 → s.readByte .pix (4 * i + s.x.chan.toNat) = e)

theorem putPix_holdsResidual (i : Nat) (e : Byte) (s : State) : HoldsResidual (putPix i e s) i e := by
  unfold HoldsResidual
  rw [putPix_x]
  refine ⟨fun hfirst => ?_, fun hfirst => ?_⟩
  · rw [putPix, if_pos hfirst, readPixWord_writePixWord]
  · rw [putPix, if_neg (by rw [hfirst]; decide), State.writePixLane, State.readByte_writeByte_same]

/-- What holds a residual goes on holding it while its word is left alone. -/
theorem HoldsResidual.of_same {s t : State} {i : Nat} {e : Byte} (h : HoldsResidual s i e) (hx : t.x = s.x)
    (hchan : s.x.chan.toNat ≤ 3) (hword : ∀ a : Nat, a / 4 = i → t.readByte .pix a = s.readByte .pix a) :
    HoldsResidual t i e := by
  obtain ⟨hfirst, hlane⟩ := h
  rw [HoldsResidual, hx, State.readPixWord, hword _ (by omega), hword _ (by omega), hword _ (by omega),
    hword _ (by omega), hword _ (by omega)]
  exact ⟨hfirst, hlane⟩

/-- Every residual written stands in its target. -/
theorem putResiduals_holdsResidual {s : State} (hchan : s.x.chan.toNat ≤ 3) {es : List Byte} {i j : Nat} {e : Byte}
    (he : es[j]? = some e) : HoldsResidual (putResiduals es i s) (i + j) e := by
  induction es generalizing i j s with
  | nil => cases he
  | cons f es ih =>
    rw [putResiduals]
    cases j with
    | zero =>
      obtain rfl : f = e := by simpa using he
      exact (putPix_holdsResidual i f s).of_same (putResiduals_x es _ _) (by rwa [putPix_x]) fun a ha =>
        readByte_putResiduals_before (by rwa [putPix_x]) es (by omega)
    | succ j =>
      rw [← Nat.add_assoc, Nat.add_right_comm]
      exact ih (by rwa [putPix_x]) he

/-! ## Whole pools (R102, R192 to R203) -/

theorem firstFailing_eq_none {l : List (Bool × Nat)} (h : ∀ e ∈ l, e.1 = false) : firstFailing l = none := by
  induction l with
  | nil => rfl
  | cons e rest ih =>
    obtain ⟨he, hrest⟩ := List.forall_mem_cons.mp h
    rw [firstFailing, he]
    exact ih hrest

/-- The checks of `GR.DEC` pass for operands in their ranges (R254). -/
theorem grChecks_pass {s : State} (hchan : s.x.chan.toNat ≤ 3) (hfirst : s.x.first.toNat ≤ 1)
    (hwhole : s.x.first.toNat = 1 → s.x.chan.toNat = 0) (hpool : s.poolLen ≤ s.cfg.poolCap)
    (hpix : s.pixBase + s.pixCount ≤ s.cfg.pixCap) : firstFailing (grChecks s) = none := by
  refine firstFailing_eq_none ?_
  simp only [grChecks, List.forall_mem_cons, Bool.and_eq_false_imp, decide_eq_true_eq, decide_eq_false_iff_not]
  exact ⟨by omega, by omega, by omega, by omega, by omega, fun _ h => nomatch h⟩

/-- Where the pixels wanted have been produced, the command ends. -/
theorem moves_of_done {s : State} (hp : s.phase = .grDec) (hrun : s.gr.run = 0) (hi : s.gr.lim ≤ s.gr.i) :
    Moves .grDec grMicro s (endCommand s) := by
  have hmicro : grMicro s = endCommand s := by rw [grMicro, grFetch, if_pos hrun, if_pos hi]
  exact hmicro ▸ Moves.single hp

/-- `GR.DEC` of a well-formed pool writes its residuals, and ends (R192). -/
theorem grDec_of_pool_bits {s : State} {polarity : Bool} {runs : List GrRun} (he : s.err = 0#8)
    (hlim : s.pixBase + s.pixCount ≤ 2 ^ 24) (hcount : 0 < s.pixCount)
    (hkinds : alternates (!polarity) runs = true) (hcodes : GrContext.encodesRuns ⟨1, 3, 0⟩ runs = true)
    (hlen : (residuals s.cfg.evenPositive runs).length = s.pixCount)
    (h : PaddedAt s.poolByte s.poolLen 0 (poolBits polarity runs)) :
    grDec s = endCommand (putResiduals (residuals s.cfg.evenPositive runs) s.pixBase
      (grBegin (s.readByte .pool 0) s)) := by
  obtain ⟨hpolarity, hruns⟩ := paddedAt_append (a := [polarity]) h
  have hbit : polarity = (s.readByte .pool 0).getLsbD 0 := by
    have := hpolarity.written 0 Nat.one_pos
    rwa [List.getElem?_cons_zero, Option.some.injEq] at this
  have hbegin : (grBegin (s.readByte .pool 0) s).gr =
      GrContext.cursor ⟨1, 3, 0⟩ s.pixBase (s.pixBase + s.pixCount) (!polarity) 0 := by
    rw [hbit]
    rfl
  obtain ⟨g, hi, hgl, hrun, hmoves⟩ := moves_of_runs runs (s := grBegin (s.readByte .pool 0) s) rfl hbegin hkinds
    hcodes (Nat.add_le_add_left hlen.le _) hlim hruns
  have hend := hmoves.trans (moves_of_done (by rw [phase_decoded]; rfl) hrun (by
    rw [State.gr_decoded, hgl, hi]
    exact Nat.add_le_add_left hlen.ge _))
  have hroom := h.room
  rw [grDec_of_pool hcount (by omega), grRun_eq_movesOf, movesOf_eq_of_moves (by decide) grMicro_progresses
    (2 * s.pixCount + 1) (s := grBegin (s.readByte .pool 0) s) ⟨rfl, he, by simp [grBegin, GrCursor.Fits]⟩
    (by simp [grBegin, GrCursor.movesLeft]) hend rfl]
  rfl

/-- Settles O48: the moves of the runs, and the target of each residual. -/
theorem grDecDecodesRuns : Obligations.GrDecDecodesRuns := by
  intro s polarity runs he hvalid hchan hfirst hwhole hpoolCap hpixCap hcount hkinds hcodes hlen hbits hpad
  have hexec : exec .grDec s = .next (grDec s) := congrArg Host.Outcome.next
    (whenReady_checked grDec he (grChecks_pass hchan hfirst hwhole hpoolCap hpixCap))
  have hpool : PaddedAt s.poolByte s.poolLen 0 (poolBits polarity runs) := by
    refine ⟨fun j hj => (hbits j hj).trans ?_, by omega⟩
    rw [cursorBit, cursorAt_pos, Nat.zero_add]
  obtain ⟨-, -, -, -, -, -, -, hpix⟩ := hvalid
  have hdec := grDec_of_pool_bits he (hpixCap.trans hpix) hcount hkinds hcodes hlen hpool
  refine ⟨_, hexec, ?_, fun j hj => ?_, (grDec_progress hchan).2⟩
  · obtain ⟨m, hm⟩ := putResiduals_frame (residuals s.cfg.evenPositive runs) s.pixBase
      (grBegin (s.readByte .pool 0) s)
    rw [hdec, hm]
    rfl
  · have hres := List.getElem?_eq_getElem (hlen ▸ hj)
    have hholds := putResiduals_holdsResidual (s := grBegin (s.readByte .pool 0) s) hchan (i := s.pixBase) hres
    rw [HoldsResidual, putResiduals_x] at hholds
    rw [hdec]
    exact ⟨_, hres, hholds⟩

end Sys2Proof.Machine
end

section
/-! PROOFS. The dictionary as the compressor uses it (spec/40_lz_dictionary.md R130 to R139): what `INSERT` and `DELETE`
do to a chain, what the match finder gives, and that the decompressor gives the input back (R177).
Settles O31, O34, O35. -/

namespace Sys2Proof.Machine

/-! ## One chain through `INSERT` and `DELETE` (R131, R132) -/

/-- `INSERT` of a position that is in no chain puts it before its key's chain (R131). -/
theorem Lzc.IsChain.insert {l : Lzc} {p : Pos} {ch : List Pos} (h : l.IsChain (l.getMap (l.key p)) ch)
    (hnext : l.getNext p = none) (hp : p ∉ ch) :
    (l.insert p).IsChain ((l.insert p).getMap (l.key p)) (p :: ch) := by
  have hrest : (l.insert p).IsChain (l.getMap (l.key p)) ch := h.congr fun q hq => by
    rw [Lzc.getNext_insert hnext, if_neg (ne_of_mem_of_not_mem hq hp)]
  have hold : (l.insert p).getNext p = l.getMap (l.key p) := by rw [Lzc.getNext_insert hnext, if_pos rfl]
  exact ⟨by rw [Lzc.getMap_insert, if_pos rfl], hold.symm ▸ hrest⟩

/-- `DELETE` of a position on its key's chain leaves the others in their order (R132). -/
theorem Lzc.IsChain.delete {l : Lzc} {p : Pos} {before after : List Pos}
    (hmutual : ∀ a b : Pos, l.getNext a = some b ↔ l.getPrev b = some a)
    (hhead : l.getPrev p = none ↔ l.getMap (l.key p) = some p)
    (h : l.IsChain (l.getMap (l.key p)) (before ++ p :: after)) (hnd : (before ++ p :: after).Nodup) :
    (l.delete p).IsChain ((l.delete p).getMap (l.key p)) (before ++ after) := by
  have hnext (q : Pos) (hq : q ≠ p) : (l.delete p).getNext q = l.bypass p (l.getNext q) := by
    simp only [Lzc.getNext_delete, if_neg hq, Lzc.bypass, hmutual]
  have hmap : (l.delete p).getMap (l.key p) = l.bypass p (l.getMap (l.key p)) := by
    simp only [Lzc.getMap_delete, hhead, true_and, Lzc.bypass]
  have hbefore : p ∉ before := fun hp =>
    (List.nodup_cons.mp (List.nodup_middle.mp hnd)).1 (List.mem_append_left after hp)
  have herase : (before ++ p :: after).erase p = before ++ after := by
    rw [List.erase_append_right _ hbefore, List.erase_cons_head]
  rw [hmap, ← herase]
  exact h.erase_of_bypass hnext hnd

/-- Settles O31: the chain by `Lzc.IsChain.insert` and `Lzc.IsChain.delete`, the rest by what each operation writes. -/
theorem insertAndDeleteChains : Obligations.InsertAndDeleteChains := by
  refine ⟨fun l p ch hprev hnext hch hp => ⟨hch.insert hnext hp, ?_, fun h hh => ?_, l.getText_insert p, l.cs_insert p⟩,
    fun l p before after hmutual hhead hch hnd => ⟨hch.delete hmutual hhead hnd, ?_, ?_, fun h hh => ?_,
      l.getText_delete p, l.cs_delete p⟩⟩
  · rw [Lzc.getPrev_insert hprev, if_pos rfl]
  · rw [Lzc.getMap_insert, if_neg hh]
  · rw [Lzc.getPrev_delete, if_pos rfl]
  · rw [Lzc.getNext_delete, if_pos rfl]
  · rw [Lzc.getMap_delete, if_neg fun hc => hh hc.1]

/-! ## Chains are determined by their start, and short -/

theorem Lzc.IsChain.unique {l : Lzc} {start : Option Pos} {ch ch' : List Pos} (h : l.IsChain start ch)
    (h' : l.IsChain start ch') : ch = ch' := by
  induction ch generalizing start ch' with
  | nil =>
    cases h
    cases ch' with
    | nil => rfl
    | cons q rest => cases h'.1
  | cons p rest ih =>
    obtain ⟨rfl, hrest⟩ := h
    cases ch' with
    | nil => cases h'
    | cons q rest' =>
      obtain ⟨hstart, hrest'⟩ := h'
      cases hstart
      rw [ih hrest hrest']

/-- Positions without repetition are at most 4096 (R292). -/
theorem length_le_of_nodup {ch : List Pos} (h : ch.Nodup) : ch.length ≤ 4096 := by
  have hnd : (ch.map BitVec.toNat).Nodup := h.map fun _ _ => BitVec.eq_of_toNat_eq
  have hsub : ch.map BitVec.toNat ⊆ List.range 4096 := fun n hn => by
    obtain ⟨p, -, rfl⟩ := List.mem_map.mp hn
    exact List.mem_range.mpr p.isLt
  simpa using (hnd.subperm hsub).length_le

/-! ## The first longest of a list -/

/-- Starting from the pair `best`, going through the positions with their lengths and taking each strictly longer one
gives `r`: nothing is longer, and it is `best` still, or the first position of its length (R137). -/
structure FirstLongest (len : Pos → Nat) (ch : List Pos) (best r : Nat × Pos) : Prop where
  /-- the length never falls -/
  best_le : best.1 ≤ r.1
  /-- no position is longer -/
  le : ∀ p ∈ ch, len p ≤ r.1
  /-- a position that replaced `best` is longer than all before it -/
  first : r = best ∨ best.1 < r.1 ∧ len r.2 = r.1 ∧
    ∃ newer older : List Pos, ch = newer ++ r.2 :: older ∧ ∀ p ∈ newer, len p < r.1

section
variable {len : Pos → Nat} {ch : List Pos} {best r : Nat × Pos} {p : Pos}

theorem FirstLongest.of_le (h : ∀ p ∈ ch, len p ≤ best.1) : FirstLongest len ch best best := ⟨le_rfl, h, .inl rfl⟩

/-- A position that is not longer is passed over. -/
theorem FirstLongest.pass (hp : len p ≤ best.1) (h : FirstLongest len ch best r) :
    FirstLongest len (p :: ch) best r := by
  obtain ⟨hbest, hle, hfirst⟩ := h
  refine ⟨hbest, List.forall_mem_cons.mpr ⟨hp.trans hbest, hle⟩, hfirst.imp_right ?_⟩
  rintro ⟨hlt, hlen, newer, older, rfl, hnewer⟩
  exact ⟨hlt, hlen, p :: newer, older, rfl, List.forall_mem_cons.mpr ⟨hp.trans_lt hlt, hnewer⟩⟩

/-- A longer position takes the place of `best`. -/
theorem FirstLongest.take (hp : best.1 < len p) (h : FirstLongest len ch (len p, p) r) :
    FirstLongest len (p :: ch) best r := by
  obtain ⟨hbest, hle, hfirst⟩ := h
  refine ⟨hp.le.trans hbest, List.forall_mem_cons.mpr ⟨hbest, hle⟩, .inr ?_⟩
  rcases hfirst with rfl | ⟨hlt, hlen, newer, older, rfl, hnewer⟩
  · exact ⟨hp, rfl, [], ch, rfl, fun _ hq => nomatch hq⟩
  · exact ⟨hp.trans hlt, hlen, p :: newer, older, rfl, List.forall_mem_cons.mpr ⟨hlt, hnewer⟩⟩

end

/-! ## The walk along a chain (R134, R137) -/

/-- At least `m` bytes are the same: `m` are compared, and each of them is equal. -/
theorem Lzc.le_sameBytes_iff (l : Lzc) (m n j : Nat) (inp : List Byte) :
    m ≤ l.sameBytes n j inp ↔ m ≤ n ∧ ∀ t : Nat, t < m → inp[t]? = some (l.getText (j + t)) := by
  induction n generalizing m j inp with
  | zero =>
    rw [Lzc.sameBytes]
    exact ⟨fun h => ⟨h, fun t ht => by omega⟩, fun h => h.1⟩
  | succ n ih =>
    cases m with
    | zero => simp
    | succ m =>
      cases inp with
      | nil => simpa [Lzc.sameBytes] using fun _ => ⟨0, Nat.zero_le m⟩
      | cons c rest =>
        have hsplit : (∀ t, t < m + 1 → (c :: rest)[t]? = some (l.getText (j + t))) ↔
            c = l.getText j ∧ ∀ t, t < m → rest[t]? = some (l.getText (j + 1 + t)) := by
          simp only [Nat.forall_lt_succ_left, List.getElem?_cons_zero, Option.some.injEq, Nat.add_zero,
            List.getElem?_cons_succ, Nat.add_assoc, Nat.add_comm 1]
        rw [hsplit, Lzc.sameBytes]
        split
        · next heq =>
          rw [Nat.succ_le_succ_iff, Nat.succ_le_succ_iff, ih]
          simp [heq]
        · next hne => simpa using fun _ heq => absurd heq.symm hne

/-- The match length of a candidate, with 0 for one that is skipped (R135). -/
def Lzc.candidateLen (l : Lzc) (la : Nat) (third : List Byte) (p : Pos) : Nat :=
  if l.skips p then 0 else l.matchLen la third p

/-- No candidate matches more than 273 bytes. -/
theorem Lzc.candidateLen_le (l : Lzc) {la : Nat} (hla : la ≤ 273) (third : List Byte) (p : Pos) :
    l.candidateLen la third p ≤ 273 := by
  have hsame := ((l.le_sameBytes_iff _ (min la (l.cs - p).toNat - 2) (p.toNat + 2) third).mp le_rfl).1
  unfold Lzc.candidateLen Lzc.matchLen
  split <;> omega

/-- One candidate of the walk: a skipped one is a match of length 0. -/
theorem Lzc.walk_some (l : Lzc) (la : Nat) (third : List Byte) (fuel : Nat) (p : Pos) (best : Nat) (pos : Pos) :
    l.walk la third (fuel + 1) (some p) best pos =
      if best < l.candidateLen la third p then
        if l.candidateLen la third p = 273 then (l.candidateLen la third p, p)
        else l.walk la third fuel (l.getNext p) (l.candidateLen la third p) p
      else if l.candidateLen la third p = 273 then (best, pos)
      else l.walk la third fuel (l.getNext p) best pos := by
  rw [Lzc.walk, Lzc.candidateLen]
  split <;> simp

/-- The walk gives the first longest candidate of the chain; ending it at length 273 loses nothing. -/
theorem Lzc.IsChain.firstLongest_walk {l : Lzc} {la : Nat} (hla : la ≤ 273) (third : List Byte) (fuel : Nat)
    {start : Option Pos} {ch : List Pos} (h : l.IsChain start ch) (hfuel : ch.length ≤ fuel) (best : Nat) (pos : Pos) :
    FirstLongest (l.candidateLen la third) ch (best, pos) (l.walk la third fuel start best pos) := by
  induction ch generalizing start fuel best pos with
  | nil =>
    cases h
    rw [Lzc.walk]
    exact .of_le fun _ hq => nomatch hq
  | cons p rest ih =>
    obtain ⟨rfl, hrest⟩ := h
    have hmax (q : Pos) : l.candidateLen la third q ≤ 273 := l.candidateLen_le hla third q
    cases fuel with
    | zero => cases hfuel
    | succ fuel =>
      have hfuel := Nat.le_of_succ_le_succ hfuel
      rw [Lzc.walk_some]
      split_ifs with hlonger hend hend
      · exact .take hlonger (.of_le fun q _ => hend ▸ hmax q)
      · exact .take hlonger (ih fuel hrest hfuel _ _)
      · exact .of_le fun q _ => (hmax q).trans (hend ▸ Nat.not_lt.mp hlonger)
      · exact .pass (Nat.not_lt.mp hlonger) (ih fuel hrest hfuel _ _)

/-! ## Usable matches (R135, R136) -/

theorem keyOf_inj {a b c d : Byte} : keyOf a b = keyOf c d ↔ a = c ∧ b = d := by
  refine ⟨fun h => ?_, by rintro ⟨rfl, rfl⟩; rfl⟩
  have hlow : BitVec.extractLsb' 0 8 (b ++ a) = BitVec.extractLsb' 0 8 (d ++ c) := congrArg _ h
  have hhigh : BitVec.extractLsb' 8 8 (b ++ a) = BitVec.extractLsb' 8 8 (d ++ c) := congrArg _ h
  rw [BitVec.extractLsb'_append_eq_right, BitVec.extractLsb'_append_eq_right] at hlow
  rw [BitVec.extractLsb'_append_eq_left, BitVec.extractLsb'_append_eq_left] at hhigh
  exact ⟨hlow, hhigh⟩

/-- The skipped candidates are those that leave no room for two bytes before the cursor (R135). -/
theorem Lzc.skips_iff (l : Lzc) (p : Pos) : l.skips p = true ↔ (l.cs - p).toNat < 2 := by
  simp only [Lzc.skips, Bool.or_eq_true, decide_eq_true_eq]
  bv_omega

/-- Past the window's end the linear compare reads the mirror, which holds what the window holds (R27, I5). -/
theorem Lzc.Ok.getText_linear {l : Lzc} (hl : l.Ok) (p : Pos) {t : Nat} (ht : t < 273) :
    l.getText (p.toNat + t) = l.getText (p + BitVec.ofNat 12 t).toNat := by
  have hp : p.toNat < 4096 := p.isLt
  rw [BitVec.toNat_add, BitVec.toNat_ofNat, Nat.mod_eq_of_lt (show t < 2 ^ 12 by omega)]
  by_cases hin : p.toNat + t < 4096
  · rw [Nat.mod_eq_of_lt hin]
  · have hmirror := hl.mirror (p.toNat + t - 4096) (by omega)
    rw [show 4096 + (p.toNat + t - 4096) = p.toNat + t by omega] at hmirror
    rw [hmirror, show (p.toNat + t) % 2 ^ 12 = p.toNat + t - 4096 by omega]

/-- The first two bytes of a usable match are the key's; the others are compared (R136). -/
theorem Lzc.usable_iff_key (l : Lzc) (c0 c1 : Byte) (third : List Byte) (p : Pos) (m : Nat) :
    l.Usable (c0 :: c1 :: third) p (m + 2) ↔ l.key p = keyOf c0 c1 ∧
      m + 2 ≤ min 273 (third.length + 1) ∧ m + 2 ≤ (l.cs - p).toNat ∧
      ∀ t : Nat, t < m → third[t]? = some (l.getText (p + BitVec.ofNat 12 (t + 2)).toNat) := by
  have hkey : l.key p = keyOf c0 c1 ↔ c0 = l.getText p.toNat ∧ c1 = l.getText (p + 1#12).toNat := by
    rw [Lzc.key, keyOf_inj, eq_comm, @eq_comm _ _ c1]
  have hpos : p + BitVec.ofNat 12 0 = p := BitVec.add_zero p
  rw [Lzc.Usable, Nat.forall_lt_succ_left, Nat.forall_lt_succ_left, hpos, hkey]
  simp only [List.getElem?_cons_zero, List.getElem?_cons_succ, Option.some.injEq, List.length_cons,
    Nat.add_sub_cancel, Nat.le_add_left, le_min_iff, true_and]
  tauto

/-- While the invariant holds, the compare finds `m + 2` bytes exactly where they are equal, short of the cursor. -/
theorem Lzc.Ok.le_candidateLen_iff {l : Lzc} (hl : l.Ok) {la : Nat} (hla : la ≤ 273) (hla2 : 2 ≤ la)
    (third : List Byte) (p : Pos) (m : Nat) :
    m + 2 ≤ l.candidateLen la third p ↔ m + 2 ≤ la ∧ m + 2 ≤ (l.cs - p).toNat ∧
      ∀ t : Nat, t < m → third[t]? = some (l.getText (p + BitVec.ofNat 12 (t + 2)).toNat) := by
  have hskip := l.skips_iff p
  unfold Lzc.candidateLen
  split
  · next hs =>
    have hnoroom := hskip.mp hs
    exact iff_of_false (by omega) fun ⟨_, hcs, _⟩ => by omega
  · next hs =>
    have hroom : ¬(l.cs - p).toNat < 2 := fun h => hs (hskip.mpr h)
    have hcount : m ≤ min la (l.cs - p).toNat - 2 ↔ m + 2 ≤ la ∧ m + 2 ≤ (l.cs - p).toNat := by omega
    rw [Lzc.matchLen, Nat.add_le_add_iff_right, Lzc.le_sameBytes_iff, hcount, and_assoc]
    refine and_congr_right fun hm => and_congr_right fun _ => forall₂_congr fun t ht => ?_
    rw [← hl.getText_linear p (show t + 2 < 273 by omega), Nat.add_right_comm, Nat.add_assoc]

/-- A match is usable if its position has the key of the first two bytes and the compare finds it so long. -/
theorem Lzc.Ok.usable_iff {l : Lzc} (hl : l.Ok) (c0 c1 c2 : Byte) (rest : List Byte) (p : Pos) (n : Nat) :
    l.Usable (c0 :: c1 :: c2 :: rest) p n ↔ l.key p = keyOf c0 c1 ∧ 2 ≤ n ∧
      n ≤ l.candidateLen (min 273 ((c0 :: c1 :: c2 :: rest).length - 1)) (c2 :: rest) p := by
  by_cases hn : 2 ≤ n
  case neg => exact iff_of_false (fun ⟨h, _⟩ => hn h) fun ⟨_, h, _⟩ => hn h
  obtain ⟨m, rfl⟩ := Nat.exists_eq_add_of_le' hn
  rw [Lzc.usable_iff_key, hl.le_candidateLen_iff (by omega) (by simp)]
  simp only [List.length_cons, Nat.add_sub_cancel, hn, true_and]

/-! ## The match finder (R134, R137) -/

/-- With three bytes left the match finder gives the first longest candidate of the chain of their key. -/
theorem Lzc.Ok.firstLongest_findMatch {l : Lzc} (hl : l.Ok) (c0 c1 c2 : Byte) (rest : List Byte) :
    ∃ ch : List Pos, l.IsChain (l.getMap (keyOf c0 c1)) ch ∧ ch.Nodup ∧ (∀ p, p ∈ ch ↔ l.key p = keyOf c0 c1) ∧
      FirstLongest (l.candidateLen (min 273 ((c0 :: c1 :: c2 :: rest).length - 1)) (c2 :: rest)) ch (0, 0#12)
        (l.findMatch (c0 :: c1 :: c2 :: rest)) := by
  obtain ⟨ch, hch, hnd, hmem⟩ := hl.chains (keyOf c0 c1)
  exact ⟨ch, hch, hnd, hmem, hch.firstLongest_walk (Nat.min_le_left _ _) _ _ (length_le_of_nodup hnd) 0 0#12⟩

/-- The match finder gives the longest usable match. -/
theorem Lzc.Ok.usable_le_findMatch {l : Lzc} (hl : l.Ok) {inp : List Byte} (hlen : 3 ≤ inp.length) {p : Pos} {n : Nat}
    (h : l.Usable inp p n) : n ≤ (l.findMatch inp).1 := by
  match inp, hlen with
  | c0 :: c1 :: c2 :: rest, _ =>
    obtain ⟨ch, -, -, hmem, hlongest⟩ := hl.firstLongest_findMatch c0 c1 c2 rest
    obtain ⟨hkey, -, hle⟩ := (hl.usable_iff c0 c1 c2 rest p n).mp h
    exact hle.trans (hlongest.le p ((hmem p).mpr hkey))

/-- A match found is usable, and no newer candidate on its chain is as long. -/
theorem Lzc.Ok.findMatch_usable {l : Lzc} (hl : l.Ok) {inp : List Byte} (h : 3 ≤ (l.findMatch inp).1) :
    l.Usable inp (l.findMatch inp).2 (l.findMatch inp).1 ∧
      ∀ newer older : List Pos,
        l.IsChain (l.getMap (l.key (l.findMatch inp).2)) (newer ++ (l.findMatch inp).2 :: older) →
        ∀ p ∈ newer, ¬l.Usable inp p (l.findMatch inp).1 := by
  match inp, Lzc.three_le_of_findMatch h with
  | c0 :: c1 :: c2 :: rest, _ =>
    obtain ⟨ch, hch, hnd, hmem, -, -, hfirst⟩ := hl.firstLongest_findMatch c0 c1 c2 rest
    generalize l.findMatch (c0 :: c1 :: c2 :: rest) = r at h hfirst ⊢
    rcases hfirst with rfl | ⟨-, hlen, newer, older, rfl, hnewer⟩
    · exact absurd h (by decide)
    have hkey : l.key r.2 = keyOf c0 c1 := (hmem r.2).mp (by simp)
    refine ⟨(hl.usable_iff ..).mpr ⟨hkey, by omega, hlen.ge⟩, fun newer' older' hch' p hp husable => ?_⟩
    rw [hkey] at hch'
    have heq := hch.unique hch'
    obtain ⟨hout, -⟩ := List.nodup_cons.mp (List.nodup_middle.mp hnd)
    obtain ⟨hbefore, hafter⟩ := not_or.mp (mt List.mem_append.mpr hout)
    obtain ⟨rfl, -, -⟩ := (List.append_cons_inj_of_notMem hbefore hafter).mp heq
    obtain ⟨-, -, hle⟩ := (hl.usable_iff ..).mp husable
    exact absurd hle (Nat.not_le.mpr (hnewer p hp))

/-- Settles O34: the walk keeps the first longest candidate of the key's chain, and being usable is to be found so
long by the compare. -/
theorem findMatchIsLongest : Obligations.FindMatchIsLongest := by
  refine fun l inp hl => ⟨fun hlen => ?_, fun hlen p n => hl.usable_le_findMatch hlen, hl.findMatch_usable⟩
  unfold Lzc.findMatch
  split
  · exact absurd hlen (by simp)
  · rfl

/-! ## Compressor and decompressor in step (spec/42_lz_decompress.md R177) -/

/-- A byte put into the window and pushed into the ring keeps them in step. -/
theorem InStep.putByte {l : Lzc} {d : Lzd} (h : InStep l d) (hl : l.Ok) (c : Byte) :
    InStep (l.putByte c) (d.push c) := by
  obtain ⟨htext, hcs⟩ := h
  obtain ⟨-, hcursor, hput⟩ := putByteKeepsInvariant l c hl
  exact ⟨fun p => by rw [Lzd.get_push, hput, hcs, htext], by rw [Lzd.push_dr, hcursor, hcs]⟩

theorem InStep.putBytes {l : Lzc} {d : Lzd} (h : InStep l d) (hl : l.Ok) (bs : List Byte) :
    InStep (l.putBytes bs) (d.pushes bs) := by
  induction bs generalizing l d with
  | nil => exact h
  | cons b bs ih => exact ih (h.putByte hl b) (l.ok_putByte b hl)

/-- A usable match ends before the cursor, so the copy reads only what the window held when the match was found: it
yields the input's next bytes. -/
theorem InStep.copy_of_usable {l : Lzc} {d : Lzd} (h : InStep l d) {inp : List Byte} {p : Pos} {n : Nat}
    (husable : l.Usable inp p n) : Lzd.copy n p d = (d.pushes (inp.take n), inp.take n) := by
  obtain ⟨htext, hcs⟩ := h
  obtain ⟨-, hn, -, hcursor, hsame⟩ := husable
  have hbytes : (Lzd.copy n p d).2 = inp.take n := by
    refine List.ext_getElem? fun a => ?_
    by_cases ha : a < n
    · have hsource : ¬(p + BitVec.ofNat 12 a - d.dr).toNat < a := by
        rw [hcs]
        bv_omega
      rw [Lzd.copy_getElem?_of_source p d ha (by omega), if_neg hsource, htext, List.getElem?_take_of_lt ha, hsame a ha]
    · rw [List.getElem?_eq_none (by rw [Lzd.copy_length]; omega), List.getElem?_take_eq_none (by omega)]
  rw [← hbytes, ← Lzd.copy_ring]

/-- The token of a match has its length and its position (R97 to R99). -/
theorem Lzd.item_matchToken (d : Lzd) {len : Nat} (h3 : 3 ≤ len) (h273 : len ≤ 273) (pos : Pos) :
    d.item (matchToken len pos) = Lzd.copy len pos d := by
  unfold matchToken
  split
  · have hlen : 18 + (BitVec.ofNat 8 (len - 18)).toNat = len := by
      rw [BitVec.toNat_ofNat]
      omega
    rw [Lzd.item, hlen]
  · have hlen : (BitVec.ofNat 4 (len - 3)).toNat + 3 = len := by
      rw [BitVec.toNat_ofNat]
      omega
    rw [Lzd.item, hlen]

/-- A token gives back the bytes it was made from, and the ring takes them. -/
theorem InStep.item_of_tokens {l : Lzc} {d : Lzd} (h : InStep l d) (hl : l.Ok) (fuel : Nat) (b : Byte)
    (rest : List Byte) : ∃ (n : Nat) (t : LzToken), 1 ≤ n ∧
      Lzc.tokens (fuel + 1) l (b :: rest) =
        t :: Lzc.tokens fuel (l.putBytes ((b :: rest).take n)) ((b :: rest).drop n) ∧
      d.item t = (d.pushes ((b :: rest).take n), (b :: rest).take n) := by
  rw [Lzc.tokens]
  split
  · next hlen =>
    obtain ⟨husable, -⟩ := hl.findMatch_usable hlen
    have ⟨_, h273, _⟩ := husable
    exact ⟨_, _, by omega, rfl, (d.item_matchToken hlen h273 _).trans (h.copy_of_usable husable)⟩
  · exact ⟨1, .lit b, le_rfl, rfl, rfl⟩

/-- The tokens of an input give the input back, and the ring takes it. -/
theorem InStep.items_tokens {l : Lzc} {d : Lzd} (h : InStep l d) (hl : l.Ok) (fuel : Nat) {inp : List Byte}
    (hfuel : inp.length ≤ fuel) : d.items (Lzc.tokens fuel l inp) = (d.pushes inp, inp) := by
  induction fuel generalizing l d inp with
  | zero =>
    obtain rfl := List.length_eq_zero_iff.mp (Nat.le_zero.mp hfuel)
    rfl
  | succ fuel ih =>
    cases inp with
    | nil => rfl
    | cons b rest =>
      obtain ⟨n, t, hpos, htokens, hitem⟩ := h.item_of_tokens hl fuel b rest
      rw [List.length_cons] at hfuel
      have hrest : ((b :: rest).drop n).length ≤ fuel := by
        rw [List.length_drop, List.length_cons]
        omega
      have hpushes : (d.pushes ((b :: rest).take n)).pushes ((b :: rest).drop n) = d.pushes (b :: rest) := by
        rw [Lzd.pushes, Lzd.pushes, ← List.foldl_append, List.take_append_drop, Lzd.pushes]
      rw [htokens, Lzd.items, hitem, ih (h.putBytes hl _) (putBytes_keeps Lzc.ok_putByte _ l hl) hrest, hpushes,
        List.take_append_drop]

/-! ## The bytes between the two commands (R94, R151) -/

theorem length_tokens_le (fuel : Nat) (l : Lzc) (inp : List Byte) : (Lzc.tokens fuel l inp).length ≤ fuel := by
  induction fuel generalizing l inp with
  | zero => exact le_rfl
  | succ fuel ih =>
    cases inp with
    | nil => exact Nat.zero_le _
    | cons b rest =>
      rw [Lzc.tokens]
      split <;> exact Nat.succ_le_succ (ih _ _)

/-- A bound on the number of groups that is no less than the number of tokens cuts nothing off. -/
theorem streamWithSpare_of_le (spare : Nat) {fuel fuel' : Nat} {ts : List LzToken} (h : ts.length ≤ fuel)
    (h' : ts.length ≤ fuel') : streamWithSpare spare fuel ts = streamWithSpare spare fuel' ts := by
  induction fuel generalizing fuel' ts with
  | zero =>
    obtain rfl := List.length_eq_zero_iff.mp (Nat.le_zero.mp h)
    cases fuel' <;> rfl
  | succ fuel ih =>
    cases ts with
    | nil => cases fuel' <;> rfl
    | cons t rest =>
      cases fuel' with
      | zero => cases h'
      | succ fuel' =>
        have hlater : ((t :: rest).drop 8).length = rest.length + 1 - 8 := by rw [List.length_drop, List.length_cons]
        rw [List.length_cons] at h h'
        rw [streamWithSpare, streamWithSpare, ih (fuel' := fuel') (by omega) (by omega)]

/-- A compression emits the stream of its tokens, no more groups than tokens. -/
theorem compress_eq_stream (l : Lzc) (inp : List Byte) : (compress l inp).1 =
    streamWithSpare 0 (l.tokens inp.length inp).length (l.tokens inp.length inp) :=
  (compressEmitsItsTokens l inp).1.trans (streamWithSpare_of_le 0 (length_tokens_le _ l inp) le_rfl)

/-- `OUT_LEN` after `LZ.COMP` is the number of compressed bytes: it has room for it (R6). -/
theorem outLen_lzComp {s : State} (hvalid : s.cfg.Valid) (hout : s.inLen + (s.inLen + 7) / 8 ≤ s.cfg.obufCap) :
    (lzComp s).x.outLen.toNat = (compress s.lzc s.input).1.length := by
  have hfits := compress_fits hout
  obtain ⟨-, -, -, hobuf, -⟩ := hvalid
  rw [lzComp_eq]
  exact (BitVec.toNat_ofNat _ _).trans (Nat.mod_eq_of_lt (by omega))

/-- What the host takes from `OBUF` after `LZ.COMP` are the compressed bytes. -/
theorem output_lzComp {s : State} (hvalid : s.cfg.Valid) (hout : s.inLen + (s.inLen + 7) / 8 ≤ s.cfg.obufCap) :
    (List.range (lzComp s).x.outLen.toNat).map ((lzComp s).readByte .obuf) = (compress s.lzc s.input).1 := by
  rw [outLen_lzComp hvalid hout]
  refine List.ext_getElem (by simp) fun a ha ha' => ?_
  rw [List.getElem_map, List.getElem_range, readByte_lzComp, List.getElem?_eq_getElem ha', Option.getD_some]

/-- Settles O35: the emitted stream is decoded to its tokens, and these give the input back and
push it into the ring. -/
theorem roundTripKeepsInStep : Obligations.RoundTripKeepsInStep := by
  intro s d he hvalid hin hout hl hstep hed
  refine ⟨lzComp s, exec_lzComp_of_checks he ((compChecks_pass s).mpr ⟨hin, hout⟩), fun hinput hdin hdout => ?_⟩
  rw [output_lzComp hvalid hout, compress_eq_stream] at hinput
  have hlen : s.input.length = s.inLen := s.inputFrom_length 0 s.inLen
  have hitems := hstep.items_tokens hl s.input.length le_rfl
  obtain ⟨-, hproper⟩ := compressEmitsItsTokens s.lzc s.input
  obtain ⟨v, hexec, hv, hobuf⟩ := lzDecompDecodesTokens d _ 0 hed hdin hproper hinput
    (by rw [hitems]; simp only; omega)
  simp only [hitems] at hv hobuf
  refine ⟨v, hexec, ?_, ?_, fun a ha => ?_, ?_⟩
  · rw [hv, State.err_setOutLen, State.err_setObuf, State.err_setLzd, endCommand_err, hed]
  · rw [hv, hlen]
    exact BitVec.ofNat_toNat 32 s.x.inLen
  · rw [hobuf, State.input, State.inputFrom_getElem? s 0 s.inLen a ha, Nat.zero_add, Option.getD_some]
  · have hlzc : (lzComp s).lzc = s.lzc.putBytes s.input := compress_lzc s.lzc s.input
    rw [hlzc, hv]
    exact hstep.putBytes hl s.input

end Sys2Proof.Machine
end

section
/-! PROOFS. The results of the LZC commands (spec/41_lz_compress.md R150 to R156): what the resets, the store and the
restore leave, the bound on the compressed bytes, and what the commands with a length of 0 leave (spec/45_system.md
R244). Settles O23, O25, O29, O52. -/

namespace Sys2Proof.Machine

/-! ## Behind the prologue -/

/-- Without a fault a command's outcome is what it does past the prologue (R241). -/
theorem next_whenReady (f : State → State) {s : State} (he : s.err = 0#8) :
    Host.Outcome.next (ρ := Refusal) (φ := Fault) (whenReady f s) = .next (f s) :=
  congrArg Host.Outcome.next (whenReady_ready f s he)

theorem exec_lzRestore_ready {s : State} (he : s.err = 0#8) : exec .lzRestore s = .next (lzRestore s) :=
  next_whenReady lzRestore he

/-- Without a fault and past its checks, `GR.DEC` is its loop (R192). -/
theorem exec_grDec_of_checks {s : State} (he : s.err = 0#8) (hchecks : firstFailing (grChecks s) = none) :
    exec .grDec s = .next (grDec s) := congrArg Host.Outcome.next (whenReady_checked grDec he hchecks)

/-! ## The dictionary, its bank and the ring (R150, R153, R154, spec/42_lz_decompress.md R170) -/

/-- With a snapshot `LZ.RESTORE` copies the bank back (R154). -/
theorem lzRestore_of_snapshot {s : State} (h : s.snapValid = true) : lzRestore s = s.setLzc s.snap := if_pos h

/-- Without one it only faults (R154). -/
theorem lzRestore_of_no_snapshot {s : State} (h : s.snapValid = false) : lzRestore s = raise .noSnapshot 0 s :=
  if_neg (by simp [h])

/-- Settles O23: both commands write the fresh context, which holds R39's values. -/
theorem contextResets : Obligations.ContextResets := fun s he =>
  ⟨⟨lzCreset s, next_whenReady lzCreset he, Lzc.fresh_holdsReset, rfl⟩,
    ⟨lzDreset s, next_whenReady lzDreset he, Lzd.fresh_holdsReset, rfl⟩⟩

/-- Settles O25: `LZ.STORE` by its meaning, `LZ.RESTORE` by whether there is a snapshot. -/
theorem lzStoreAndRestore : Obligations.LzStoreAndRestore := by
  intro s he
  refine ⟨next_whenReady lzStore he, fun hvalid => ?_, fun hnone => ?_⟩
  · rw [exec_lzRestore_ready he, lzRestore_of_snapshot hvalid]
  · rw [exec_lzRestore_ready he, lzRestore_of_no_snapshot hnone]
    rfl

/-! ## The compressed bytes (R156) -/

/-- Settles O29: at most a token, and at most a byte of a token, comes from each byte of the input. -/
theorem compressOutputBound : Obligations.CompressOutputBound := compress_length_le

/-! ## Empty operands (spec/45_system.md R244) -/

/-- A compression of nothing emits nothing, and leaves the dictionary. -/
theorem compress_nil (l : Lzc) : compress l [] = ([], l) := rfl

section
variable {s : State}

theorem State.inLen_eq_zero (h : s.x.inLen = 0#32) : s.inLen = 0 := congrArg BitVec.toNat h

theorem State.input_eq_nil (h : s.x.inLen = 0#32) : s.input = [] := by
  rw [State.input, State.inLen_eq_zero h, State.inputFrom]

/-- An empty input passes the checks of `LZ.COMP` and `LZ.CBLK`, whatever the capacities. -/
theorem compChecks_pass_of_empty (h : s.x.inLen = 0#32) : firstFailing (compChecks s) = none := by
  rw [compChecks_pass, State.inLen_eq_zero h]
  exact ⟨Nat.zero_le _, Nat.zero_le _⟩

theorem lzComp_of_empty (h : s.x.inLen = 0#32) : lzComp s = s.setOutLen 0#32 := by
  rw [lzComp, State.input_eq_nil h, compress_nil]
  rfl

/-- The raw outcome of nothing is the roll-back and the two results. -/
theorem storeRaw_of_empty (h : s.x.inLen = 0#32) :
    storeRaw s = ((s.setLzc s.snap).setMark 1#32).setOutLen 0#32 := by
  rw [storeRaw, State.input_eq_nil h, h]
  rfl

/-- Nothing is not strictly smaller than nothing: the block is stored raw, and the roll-back finds the dictionary as it
was (R155). -/
theorem lzCblk_of_empty (h : s.x.inLen = 0#32) :
    lzCblk s = (((s.setSnap s.lzc).setSnapValid true).setMark 1#32).setOutLen 0#32 := by
  have hraw : s.inLen ≤ (compress s.lzc s.input).1.length := (State.inLen_eq_zero h).trans_le (Nat.zero_le _)
  have hattempt : lzComp (lzStore s) = (lzStore s).setOutLen 0#32 := lzComp_of_empty (s := lzStore s) h
  rw [lzCblk_of_not_smaller hraw, hattempt]
  exact storeRaw_of_empty (s := (lzStore s).setOutLen 0#32) h

/-- `LZ.DECOMP` of an empty input is that of the empty token stream. -/
theorem lzDecomp_of_empty (he : s.err = 0#8) (h : s.x.inLen = 0#32) :
    lzDecomp s = (endCommand s).setOutLen 0#32 :=
  lzDecomp_of_stream (ts := []) (spare := 0) he (fun _ ht => nomatch ht) (State.input_eq_nil h) (Nat.zero_le _)

/-- With no pixels wanted `GR.DEC` ends before its first fetch (R192). -/
theorem grDec_of_no_pixels (h : s.x.pixCount = 0#32) : grDec s = s := if_pos (congrArg BitVec.toNat h)

end

/-- Settles O52: each command on its empty operand, past its checks. -/
theorem zeroLengthCommands : Obligations.ZeroLengthCommands := by
  intro s he
  refine ⟨fun hempty => ⟨?_, ?_, ?_⟩, fun hcount hchecks => ?_⟩
  · rw [exec_lzComp_of_checks he (compChecks_pass_of_empty hempty), lzComp_of_empty hempty]
  · rw [exec_lzCblk_of_checks he (compChecks_pass_of_empty hempty), lzCblk_of_empty hempty]
  · rw [exec_lzDecomp_of_check he ((State.inLen_eq_zero hempty).trans_le (Nat.zero_le _)), lzDecomp_of_empty he hempty]
  · rw [exec_grDec_of_checks he hchecks, grDec_of_no_pixels hcount]

end Sys2Proof.Machine
end

section
/-! PROOFS. The fault registers (spec/60_exceptions.md R251): with which details each data fault is raised, that the
transient values of a running command stay in their ranges, and that every step keeps both. Settles O13. -/

namespace Sys2Proof.Machine

/-! ## Details of faults (R251, R254) -/

theorem Cause.code_inj {c c' : Cause} (h : c.code = c'.code) : c = c' := by
  revert h
  cases c <;> cases c' <;> decide

/-- The details of a `BAD_OPERAND` and of a `NO_SNAPSHOT`; the other faults have no bound without a configuration. -/
def Cause.BoundsDetail (info : Nat) : Cause → Prop
  | .badOperand => info ≤ 6
  | .noSnapshot => info = 0
  | _ => True

/-- The details of the other six faults, as far as the capacities bound them. -/
def Cause.FitsDetail (cfg : Config) (info : Nat) : Cause → Prop
  | .illegalCmd => ∀ i : Instr, decodeCommand (BitVec.ofNat 32 info) ≠ .ok i
  | .outOverflow => info ≤ cfg.obufCap ∧ cfg.obufCap < info + 273
  | .lzTruncated => 1 ≤ info ∧ info ≤ cfg.ibufCap
  | .grIndexRange => info ≤ cfg.poolCap
  | .grTableRange => 1024 ≤ info ∧ info < 2 ^ 16
  | .grOverrun => info < cfg.pixCap
  | .badOperand | .noSnapshot => True

/-- A detail in its range is what `ERR_INFO` holds of it (R255): it has at most 32 bits, or no lower bound. -/
theorem Cause.FitsDetail.errInfo {c : Cause} {cfg : Config} {info : Nat} (hvalid : cfg.Valid)
    (h : c.FitsDetail cfg info) : c.FitsDetail cfg (BitVec.ofNat 32 info).toNat := by
  obtain ⟨-, hibuf, -, hobuf, -⟩ := hvalid
  cases c with
  | illegalCmd =>
    simp only [FitsDetail, BitVec.ofNat_toNat, BitVec.setWidth_eq] at h ⊢
    exact h
  | badOperand | noSnapshot => trivial
  | _ =>
    simp only [FitsDetail, BitVec.toNat_ofNat] at h ⊢
    omega

/-- `t` holds the fault `c` with detail `info` (R255). -/
def State.HoldsFault (t : State) (c : Cause) (info : Nat) : Prop := t.err = c.code ∧ t.errInfo = BitVec.ofNat 32 info

theorem raise_holds (c : Cause) (info : Nat) (s : State) : (raise c info s).HoldsFault c info := ⟨rfl, rfl⟩

theorem State.HoldsFault.errorsOk {t : State} {c : Cause} {info : Nat} (h : t.HoldsFault c info)
    (hok : c.BoundsDetail info) : t.ErrorsOk := by
  obtain ⟨herr, hinfo⟩ := h
  refine ⟨herr ▸ c.code_range.2, fun h => absurd (herr.symm.trans h) c.code_ne_zero, fun h => ?_, fun h => ?_⟩
  · obtain rfl : c = .badOperand := Cause.code_inj (herr.symm.trans h)
    have hle : info ≤ 6 := hok
    rw [hinfo, BitVec.toNat_ofNat]
    omega
  · obtain rfl : c = .noSnapshot := Cause.code_inj (herr.symm.trans h)
    rw [hinfo, show info = 0 from hok]

/-- `DetailsOk` speaks of a fault's detail as `FitsDetail` does. -/
theorem State.detailsOk_iff (t : State) :
    t.DetailsOk ↔ ∀ c : Cause, t.err = c.code → c.FitsDetail t.cfg t.errInfo.toNat := by
  have hword : BitVec.ofNat 32 t.errInfo.toNat = t.errInfo := by simp
  constructor
  · rintro ⟨h1, h3, h4, h6, h7, h8⟩ c hc
    cases c with
    | illegalCmd =>
      simp only [Cause.FitsDetail, hword]
      exact h1 hc
    | badOperand | noSnapshot => trivial
    | outOverflow => exact h3 hc
    | lzTruncated => exact h4 hc
    | grIndexRange => exact h6 hc
    | grTableRange => exact h7 hc
    | grOverrun => exact h8 hc
  · intro h
    have hillegal := h .illegalCmd
    simp only [Cause.FitsDetail, hword] at hillegal
    exact ⟨hillegal, h .outOverflow, h .lzTruncated, h .grIndexRange, h .grTableRange, h .grOverrun⟩

theorem State.HoldsFault.detailsOk {t : State} {c : Cause} {info : Nat} (h : t.HoldsFault c info) (hvalid : t.cfg.Valid)
    (hok : c.FitsDetail t.cfg info) : t.DetailsOk := by
  obtain ⟨herr, hinfo⟩ := h
  refine t.detailsOk_iff.mpr fun c' hc' => ?_
  obtain rfl := Cause.code_inj (herr.symm.trans hc')
  exact hinfo ▸ hok.errInfo hvalid

/-! ## What a move of `LZ.DECOMP` can do (spec/42_lz_decompress.md R172 to R175) -/

/-- The data faults of a running `LZ.DECOMP`, each with its detail. -/
inductive LzFault (s : State) : Cause → Nat → Prop
  /-- a token yields more bytes than `OBUF` has left -/
  | overflow {len : Nat} (hlen : len ≤ 273) (h : s.cfg.obufCap < s.lz.op + len) : LzFault s .outOverflow s.lz.op
  /-- the input ends after a control byte or inside a token -/
  | truncated {info : Nat} (hip : s.lz.ip ≤ info) (hctrl : s.lz.nbits ≠ 0 ∨ s.lz.ip < info) (hlen : info ≤ s.inLen) :
    LzFault s .lzTruncated info

/-- Everything that a move of `LZ.DECOMP` can do. -/
inductive LzMove (s : State) : State → Prop
  | finishes : LzMove s (lzFinish s)
  | aborts {c : Cause} {info : Nat} (h : LzFault s c info) : LzMove s (lzAbort c info s)
  /-- an item is taken from the input, and its output fits -/
  | goesOn (d : Lzd) (m : Memory) {l : LzCursor} (hip : s.lz.ip < l.ip) (hlen : l.ip ≤ s.inLen)
    (hop : s.lz.op ≤ s.cfg.obufCap → l.op ≤ s.cfg.obufCap) : LzMove s (((s.setLzd d).setObuf m).setLz l)

theorem matchItem_move {bytes len : Nat} (p : Pos) {s : State} (hpos : 0 < bytes) (hroom : s.lz.ip + bytes ≤ s.inLen)
    (hlen : len ≤ 273) : LzMove s (matchItem bytes len p s) := by
  by_cases hfits : s.lz.op + len ≤ s.cfg.obufCap
  · rw [matchItem_eq_produced p hfits]
    exact .goesOn _ _ (Nat.lt_add_of_pos_right hpos) hroom fun _ => hfits
  · rw [matchItem, if_pos (by omega)]
    exact .aborts (.overflow hlen (by omega))

theorem runToken_move {t : LzToken} {s : State} (hroom : s.lz.ip + t.bytes.length ≤ s.inLen) :
    LzMove s (runToken t s) := by
  cases t with
  | ctrl f =>
    simp only [LzToken.bytes, List.length_singleton] at hroom
    simp only [runToken, ctrlItem]
    split
    · exact .aborts (.truncated (by omega) (.inr (by omega)) hroom)
    · exact .goesOn s.lzd s.obuf (Nat.lt_succ_self _) hroom id
  | lit c =>
    by_cases hfits : s.lz.op + 1 ≤ s.cfg.obufCap
    · rw [runToken_eq_produced (t := .lit c) rfl hfits]
      exact .goesOn _ _ (Nat.lt_succ_self _) hroom fun _ => hfits
    · rw [runToken, litItem, if_pos (by omega)]
      exact .aborts (.overflow (len := 1) (by decide) (by omega))
  | short p lc =>
    have hlc := lc.isLt
    exact matchItem_move p (by decide) hroom (by rw [shortLen]; omega)
  | long p e =>
    have he := e.isLt
    exact matchItem_move p (by decide) hroom (by rw [longLen]; omega)

/-- A token is rejected only because the stream ends inside it. -/
theorem decodeToken_eq_reject {isMatch : Bool} {bs : List Byte} {r : Reject} (h : decodeToken isMatch bs = .reject r) :
    ∃ used ≤ bs.length, r = .truncated used := by
  unfold decodeToken at h
  repeat' split at h
  all_goals cases h
  all_goals exact ⟨_, by simp, rfl⟩

theorem State.length_itemBytes (s : State) : s.itemBytes.length = min 3 (s.inLen - s.lz.ip) :=
  s.inputFrom_length _ _

/-- Only an item's own bytes are decoded to it. -/
theorem State.itemBytes_of_decodeItem {s : State} {t : LzToken} {rest : List Byte}
    (h : s.decodeItem = .ok (t, rest)) : s.itemBytes = t.bytes ++ rest := by
  unfold State.decodeItem at h
  split at h
  · unfold decodeControl at h
    split at h <;> cases h
    assumption
  · exact (decodeToken_eq_ok h).2.2

/-- While there is input left, an item is rejected only inside a group, for a token that the input ends in. -/
theorem State.reject_of_decodeItem {s : State} {r : Reject} (hip : s.lz.ip < s.inLen) (h : s.decodeItem = .reject r) :
    s.lz.nbits ≠ 0 ∧ ∃ used : Nat, s.lz.ip + used ≤ s.inLen ∧ r = .truncated used := by
  have hlen := s.length_itemBytes
  unfold State.decodeItem at h
  split at h
  · unfold decodeControl at h
    split at h
    · next hnil =>
      rw [hnil, List.length_nil] at hlen
      omega
    · cases h
  · next hbits =>
    obtain ⟨used, hused, hr⟩ := decodeToken_eq_reject h
    exact ⟨hbits, used, by omega, hr⟩

theorem lzMicro_move (s : State) : LzMove s (lzMicro s) := by
  unfold lzMicro lzFetch
  by_cases hip : s.inLen ≤ s.lz.ip
  · simp only [hip, if_true]
    exact .finishes
  · simp only [hip, if_false]
    cases hd : s.decodeItem with
    | ok item =>
      obtain ⟨t, rest⟩ := item
      have hbytes := congrArg List.length (State.itemBytes_of_decodeItem hd)
      rw [State.length_itemBytes, List.length_append] at hbytes
      exact runToken_move (by omega)
    | reject r =>
      obtain ⟨hbits, used, hused, rfl⟩ := State.reject_of_decodeItem (by omega) hd
      exact .aborts (.truncated (Nat.le_add_right _ _) (.inl hbits) hused)

/-! ## What a move of `GR.DEC` can do (spec/43_golomb.md R192 to R201) -/

/-- The transient values of a running `GR.DEC` in their ranges (R37, R193, R199), for a pool of `len` bytes and `cap`
words of `PIX`. -/
structure GrCursor.InRange (g : GrCursor) (len cap : Nat) : Prop where
  /-- the bit cursor is inside the pool -/
  inPool : g.cur.bp < len
  /-- the bit is one of a byte -/
  bit : g.cur.bit < 8
  /-- the run going on fits the pixels wanted -/
  fits : g.Fits
  /-- the pixels wanted are inside `PIX` -/
  lim : g.lim ≤ cap
  /-- the accumulator has 16 bits -/
  acc : g.a < 2 ^ 16

/-- The data faults of a running `GR.DEC`, each with its detail. -/
inductive GrFault (s : State) : Cause → Nat → Prop
  /-- a fetch reaches past the pool -/
  | indexRange {bp : Nat} (h : s.gr.cur.bit < 8 → s.gr.cur.bp < s.poolLen → bp ≤ s.poolLen) :
    GrFault s .grIndexRange bp
  /-- the accumulator is outside the table -/
  | tableRange (h : 1024 ≤ s.gr.a) : GrFault s .grTableRange s.gr.a
  /-- a run length is too long -/
  | overrun (h : s.gr.i < s.gr.lim ∨ s.gr.run ≠ 0) : GrFault s .grOverrun s.gr.i

/-- Everything that a move of `GR.DEC` can do. -/
inductive GrMove (s : State) : State → Prop
  | finishes : GrMove s (endCommand s)
  | aborts {c : Cause} {info : Nat} (h : GrFault s c info) : GrMove s (grAbort c info s)
  /-- a code is taken from the pool, and the decoder goes on inside the ranges -/
  | goesOn (m : Memory) {g : GrCursor} (h : ∀ cap : Nat, s.gr.InRange s.poolLen cap → g.InRange s.poolLen cap) :
    GrMove s ((s.setPix m).setGr g)

section
variable {pool : Nat → Byte} {len : Nat} {c : BitCursor}

/-- A window that is inside the pool is followed by at least the bits of a run length's suffix, or of a residual's
remainder. -/
theorem advance_bp_lt {n m : Nat} (hfit : (c.advance n).bp + 4 ≤ len) (hm : m ≤ n + 24) : (c.advance m).bp < len := by
  simp only [BitCursor.advance] at hfit ⊢
  omega

/-- The first window that is not inside the pool starts inside the pool or right after it. -/
theorem SkipMisses.bp_le {j bp : Nat} (h : SkipMisses pool len c j bp) (hbit : c.bit < 8) (hin : c.bp < len) :
    bp ≤ len := by
  cases j with
  | zero =>
    obtain ⟨rfl, -⟩ := (skipMisses_zero_iff hbit bp).mp h
    exact hin.le
  | succ j =>
    have hlast := h.last_fits j.succ_pos
    obtain ⟨-, -, rfl, -⟩ := h
    exact (advance_bp_lt hlast (by omega)).le

/-- A run length's fetch that reaches past the pool starts at its end at the latest. -/
theorem GammaMisses.bp_le {bp : Nat} (h : GammaMisses pool len c bp) (hbit : c.bit < 8) (hin : c.bp < len) :
    bp ≤ len := by
  rcases h with ⟨j, hskip⟩ | ⟨z, -, -, hfind, rfl, -⟩
  · exact hskip.bp_le hbit hin
  · exact (advance_bp_lt hfind (by omega)).le

/-- A residual's fetch that reaches past the pool starts at its end at the latest. -/
theorem ValueMisses.bp_le {bp : Nat} (h : ValueMisses pool len c bp) (hbit : c.bit < 8) (hin : c.bp < len) :
    bp ≤ len := by
  rcases h with hskip | ⟨j, m, -, -, -, hskip⟩ | ⟨-, hfit, ⟨rfl, -⟩ | ⟨rfl, hquot, -⟩⟩
  · exact hskip.bp_le hbit hin
  · exact hskip.bp_le hbit hin
  · exact hfit
  · exact hquot

/-- After a run length the cursor is still inside the pool. -/
theorem advance_bp_lt_of_gammaAt {z k : Nat} {next : BitCursor} (hbit : c.bit < 8)
    (h : gammaAt pool len c = .ok (.gamma z k, next)) : (c.advance (2 * z + 1)).bp < len := by
  rcases skip_cases pool len hbit with ⟨j, bp, hskip⟩ | ⟨n, hone, hfind⟩
  · rw [gammaAt_of_skipMisses hbit hskip] at h
    cases h
  · rw [gammaAt_of_findsOne hbit hone hfind] at h
    split_ifs at h with hz hfit
    cases h
    exact advance_bp_lt hfit (by omega)

/-- A residual that has been read: its quotient fits a byte and its remainder the parameter, and the cursor after it is
inside the pool. -/
structure ReadsResidual (len k q r : Nat) (next : BitCursor) : Prop where
  /-- the quotient -/
  quotient : q ≤ 255
  /-- the remainder -/
  remainder : r < 2 ^ k
  /-- the byte of the cursor -/
  inPool : next.bp < len
  /-- the bit of the cursor -/
  bit : next.bit < 8

/-- How reading a residual ends (R196, R197). -/
theorem valueAt_cases (hbit : c.bit < 8) {k : Nat} (hk : k ≤ 8) :
    (∃ e : Reject, valueAt pool len k c = .reject e) ∨
    (∃ q r : Nat, valueAt pool len k c = .ok (.golomb q r, c.advance (q + 1 + k)) ∧
      ReadsResidual len k q r (c.advance (q + 1 + k))) ∨
    ∃ (q : Byte) (r : Nat), valueAt pool len k c = .ok (.golombx q r, BitCursor.advance ⟨c.bp + 5, 0⟩ k) ∧
      ReadsResidual len k q.toNat r (BitCursor.advance ⟨c.bp + 5, 0⟩ k) := by
  have hremainder (w : Nat) : w % 2 ^ k < 2 ^ k := Nat.mod_lt _ (Nat.two_pow_pos k)
  by_cases hfit : c.bp + 4 ≤ len
  case neg => exact .inl ⟨_, valueAt_of_misses k (by omega)⟩
  by_cases hzeros : ∀ m : Nat, m < 32 - c.bit → cursorBit pool c m = false
  · rw [valueAt_of_zeros k hfit hzeros, escapeAt_eq]
    split_ifs with hquot hrem
    · refine .inr (.inr ⟨_, _, rfl, Nat.le_of_lt_succ (BitVec.isLt _), hremainder _, ?_, advance_bit_lt _ _⟩)
      exact advance_bp_lt (n := 0) (by rwa [advance_zero (Nat.zero_lt_succ 7)]) (by omega)
    · exact .inl ⟨_, rfl⟩
    · exact .inl ⟨_, rfl⟩
  · obtain ⟨m, hm, hset⟩ : ∃ m < 32 - c.bit, cursorBit pool c m = true := by simpa using hzeros
    rcases skip_cases pool len hbit with ⟨j, bp, hskip⟩ | ⟨q, hone, hfind⟩
    · rcases Nat.eq_zero_or_pos j with rfl | hj
      · have := (skipMisses_zero_iff hbit bp).mp hskip
        omega
      · exact .inl ⟨_, valueAt_of_skipMisses hbit k hj hm hset hskip⟩
    · have hq : q ≤ m := by
        by_contra hlt
        simp [hone.1 m (by omega)] at hset
      exact .inr (.inl ⟨q, _, valueAt_of_findsOne hbit k hm hset hone hfind, by omega, hremainder _,
        advance_bp_lt hfind (by omega), advance_bit_lt _ _⟩)

theorem readsResidual_of_golomb (hbit : c.bit < 8) {k q r : Nat} (hk : k ≤ 8) {next : BitCursor}
    (h : valueAt pool len k c = .ok (.golomb q r, next)) : ReadsResidual len k q r (c.advance (q + 1 + k)) := by
  rcases valueAt_cases (pool := pool) (len := len) hbit hk with ⟨e, heq⟩ | ⟨q', r', heq, hreads⟩ | ⟨q', r', heq, -⟩ <;>
    rw [heq] at h <;> cases h
  exact hreads

theorem readsResidual_of_golombx (hbit : c.bit < 8) {k r : Nat} {q : Byte} (hk : k ≤ 8) {next : BitCursor}
    (h : valueAt pool len k c = .ok (.golombx q r, next)) :
    ReadsResidual len k q.toNat r (BitCursor.advance ⟨c.bp + 5, 0⟩ k) := by
  rcases valueAt_cases (pool := pool) (len := len) hbit hk with ⟨e, heq⟩ | ⟨q', r', heq, -⟩ | ⟨q', r', heq, hreads⟩ <;>
    rw [heq] at h <;> cases h
  exact hreads

/-- A raw value has 16 bits. -/
theorem ReadsResidual.value_lt {k q r : Nat} {next : BitCursor} (h : ReadsResidual len k q r next) (hk : k ≤ 8) :
    q * 2 ^ k + r < 2 ^ 16 := by
  obtain ⟨hq, hr, -, -⟩ := h
  calc q * 2 ^ k + r < q * 2 ^ k + 2 ^ k := Nat.add_lt_add_left hr _
    _ = (q + 1) * 2 ^ k := (Nat.succ_mul q _).symm
    _ ≤ 2 ^ 8 * 2 ^ 8 := Nat.mul_le_mul (by omega) (Nat.pow_le_pow_right (by decide) hk)

end

/-- The next fetch of `GR.DEC`: it is done, or faults, or comes to a code that the pool holds at the bit cursor. -/
inductive GrFetched (s : State) : GrFetch → Prop
  | done : GrFetched s .done
  | raises {c : Cause} {info : Nat} (h : GrFault s c info) : GrFetched s (.raise c info)
  | runLength {c : GrCode} {next : BitCursor} (hrun : s.gr.run = 0) (hi : s.gr.i < s.gr.lim)
    (h : gammaAt s.poolByte s.poolLen s.gr.cur = .ok (c, next)) : GrFetched s (.code c)
  | residual {c : GrCode} {next : BitCursor} (hrun : s.gr.run ≠ 0) (ha : s.gr.a < 1024)
    (h : valueAt s.poolByte s.poolLen s.golombParam s.gr.cur = .ok (c, next)) : GrFetched s (.code c)

/-- A rejected code is a fault with its detail. -/
theorem grReject_fetched {s : State} {r : Reject} (hi : s.gr.i < s.gr.lim ∨ s.gr.run ≠ 0)
    (hpool : ∀ bp : Nat, r = .poolRange bp → s.gr.cur.bit < 8 → s.gr.cur.bp < s.poolLen → bp ≤ s.poolLen) :
    GrFetched s (grReject s.gr.i r) := by
  cases r with
  | poolRange bp => exact .raises (.indexRange (hpool bp rfl))
  | _ => exact .raises (.overrun hi)

theorem grFetch_fetched (s : State) : GrFetched s (grFetch s) := by
  unfold grFetch
  split
  · next hrun =>
    split
    · exact .done
    · next hi =>
      have hi : s.gr.i < s.gr.lim := Nat.lt_of_not_le hi
      split
      · next h => exact .runLength hrun hi h
      · next h =>
        refine grReject_fetched (.inl hi) fun bp hr hbit hin => ?_
        exact ((gammaAt_poolRange_iff hbit bp).mp (h.trans (congrArg _ hr))).bp_le hbit hin
  · next hrun =>
    split
    · next ha => exact .raises (.tableRange ha)
    · next ha =>
      split
      · next h => exact .residual hrun (Nat.lt_of_not_le ha) h
      · next h =>
        refine grReject_fetched (.inr hrun) fun bp hr hbit hin => ?_
        exact ((valueAt_poolRange_iff hbit _ bp).mp (h.trans (congrArg _ hr))).bp_le hbit hin

/-- A run length keeps the ranges, or runs past the pixels wanted (R195). -/
theorem gammaCode_move {s : State} {z k : Nat} {next : BitCursor} (hrun : s.gr.run = 0) (hi : s.gr.i < s.gr.lim)
    (h : gammaAt s.poolByte s.poolLen s.gr.cur = .ok (.gamma z k, next)) : GrMove s (gammaCode z k s) := by
  unfold gammaCode
  split
  · exact .aborts (.overrun (.inl hi))
  next hfit =>
    obtain ⟨-, hfit⟩ := not_or.mp hfit
    split
    · obtain ⟨m, hm⟩ := putZeros_frame (2 ^ z + k) s.gr.i s
      rw [hm]
      refine .goesOn m fun cap hs => ⟨advance_bp_lt_of_gammaAt hs.bit h, advance_bit_lt _ _, ?_, hs.lim, hs.acc⟩
      simp only [GrCursor.Fits, hrun]
      omega
    · exact .goesOn s.pix fun cap hs =>
        ⟨advance_bp_lt_of_gammaAt hs.bit h, advance_bit_lt _ _, Nat.le_of_not_gt hfit, hs.lim, hs.acc⟩

/-- The accumulator grows by at most half a raw value (R199). -/
theorem GrCursor.adapt_acc_le (g : GrCursor) (v : Nat) : (g.adapt v).a ≤ g.a + v / 2 := by
  unfold GrCursor.adapt
  split
  · exact Nat.div_le_self _ _
  · exact le_rfl

theorem GrCursor.countOne_acc (g : GrCursor) : g.countOne.a = g.a := by
  unfold GrCursor.countOne
  split <;> rfl

/-- A residual of a run keeps the ranges (R196 to R199). -/
theorem takeResidual_move {s : State} {k q r : Nat} {next : BitCursor} (hrun : s.gr.run ≠ 0) (ha : s.gr.a < 1024)
    (hk : k ≤ 8) (h : s.gr.cur.bit < 8 → ReadsResidual s.poolLen k q r next) :
    GrMove s (takeResidual (q * 2 ^ k + r) next s) := by
  obtain ⟨m, hm⟩ := putPix_frame s.gr.i (signMap s.cfg.evenPositive (q * 2 ^ k + r)) s
  obtain ⟨hai, hal, har⟩ := s.gr.adapt_place (q * 2 ^ k + r)
  obtain ⟨hci, hcl, hcr⟩ := (s.gr.adapt (q * 2 ^ k + r)).countOne_place
  rw [takeResidual, hm]
  refine .goesOn m fun cap hs => ?_
  have hreads := h hs.bit
  refine ⟨hreads.inPool, hreads.bit, ?_, ?_, ?_⟩
  · have hfits := hs.fits
    simp only [GrCursor.Fits, hci, hcl, hcr, hai, hal, har] at hfits ⊢
    omega
  · exact (hcl.trans hal).trans_le hs.lim
  · have hvalue := hreads.value_lt hk
    have hacc := s.gr.adapt_acc_le (q * 2 ^ k + r)
    rw [GrCursor.countOne_acc]
    omega

theorem grMicro_move (s : State) : GrMove s (grMicro s) := by
  have hfetched := grFetch_fetched s
  unfold grMicro
  generalize grFetch s = f at hfetched
  cases hfetched with
  | done => exact .finishes
  | raises h => exact .aborts h
  | @runLength c next hrun hi h =>
    cases c with
    | gamma z k => exact gammaCode_move hrun hi h
    | _ => cases isRunLength_of_gammaAt h
  | @residual c next hrun ha h =>
    have hk : s.golombParam ≤ 8 := gbl_le ha _
    have hin : ¬1024 ≤ s.gr.a := Nat.not_le_of_gt ha
    cases c with
    | gamma z k => cases isRunLength_of_valueAt h
    | golomb q r =>
      simp only [runCode, golombCode, hin, if_false]
      exact takeResidual_move hrun ha hk fun hbit => readsResidual_of_golomb hbit hk h
    | golombx q r =>
      simp only [runCode, golombxCode, hin, if_false]
      exact takeResidual_move hrun ha hk fun hbit => readsResidual_of_golombx hbit hk h

/-! ## Commands and the fault registers -/

/-- Both states have the same configuration and the same command running, and hold the same fault. -/
structure State.SameFault (s t : State) : Prop extends State.SameControl s t where
  /-- `ERR` -/
  err : t.err = s.err
  /-- `ERR_INFO` -/
  errInfo : t.errInfo = s.errInfo

theorem State.SameFault.refl (s : State) : s.SameFault s := ⟨.refl s, rfl, rfl⟩

theorem State.SameFault.trans {s t u : State} (h : s.SameFault t) (h' : t.SameFault u) : s.SameFault u :=
  ⟨h.toSameControl.trans h'.toSameControl, h'.err.trans h.err, h'.errInfo.trans h.errInfo⟩

theorem State.setEvents_sameFault (s : State) (es : List Event) : s.SameFault (s.setEvents es) :=
  ⟨s.setEvents_sameControl es, rfl, rfl⟩

theorem State.setLzc_sameFault (s : State) (l : Lzc) : s.SameFault (s.setLzc l) := ⟨s.setLzc_sameControl l, rfl, rfl⟩

theorem State.setMark_sameFault (s : State) (v : Word) : s.SameFault (s.setMark v) :=
  ⟨s.setMark_sameControl v, rfl, rfl⟩

theorem State.setOutLen_sameFault (s : State) (v : Word) : s.SameFault (s.setOutLen v) :=
  ⟨s.setOutLen_sameControl v, rfl, rfl⟩

theorem State.writeBytes_sameFault (s : State) (sp : Space) (a : Nat) (bs : List Byte) :
    s.SameFault (s.writeBytes sp a bs) := by
  obtain ⟨m, hm⟩ := s.writeBytes_frame sp a bs
  exact ⟨s.writeBytes_sameControl sp a bs, hm ▸ s.err_setMem sp m, hm ▸ s.errInfo_setMem sp m⟩

theorem lzComp_sameFault (s : State) : s.SameFault (lzComp s) :=
  (s.writeBytes_sameFault .obuf 0 _).trans ((State.setLzc_sameFault _ _).trans (State.setOutLen_sameFault _ _))

theorem storeRaw_sameFault (s : State) : s.SameFault (storeRaw s) :=
  (s.setLzc_sameFault s.snap).trans ((State.writeBytes_sameFault _ .obuf 0 _).trans
    ((State.setMark_sameFault _ _).trans (State.setOutLen_sameFault _ _)))

theorem lzStore_sameFault (s : State) : s.SameFault (lzStore s) := ⟨⟨rfl, rfl, rfl, rfl⟩, rfl, rfl⟩

theorem lzCblk_sameFault (s : State) : s.SameFault (lzCblk s) := by
  have hattempt := (lzStore_sameFault s).trans (lzComp_sameFault (lzStore s))
  unfold lzCblk
  split
  · exact hattempt.trans (State.setMark_sameFault _ _)
  · exact hattempt.trans (storeRaw_sameFault _)

theorem hostAccess_sameFault {a : HostAccess} {s t : State} (h : hostAccess a s = .next t) : s.SameFault t := by
  refine ⟨hostAccess_sameControl h, hostAccess_err h, ?_⟩
  cases a with
  | writeByte sp i b => rw [State.atIndex_next h, State.errInfo_writeByte]
  | readByte sp i => rw [State.atIndex_next h, State.errInfo_setBus]
  | writePix i v =>
    obtain ⟨m, hm⟩ := s.writePixWord_frame i v
    rw [State.atIndex_next h, hm, State.errInfo_setPix]
  | readPix i => rw [State.atIndex_next h, State.errInfo_setBus]
  | _ =>
    cases h
    rfl

/-- The operand checks are numbered up to 6 (R254). -/
theorem firstFailing_le {s : State} {checks : State → List (Bool × Nat)} {k : Nat}
    (hchecks : checks ∈ [decompChecks, compChecks, grChecks]) (h : firstFailing (checks s) = some k) : k ≤ 6 := by
  have hmem := firstFailing_mem _ _ h
  fin_cases hchecks <;> simp [decompChecks, compChecks, grChecks] at hmem <;> omega

/-- The checks of `GR.DEC` pass only with the pool inside its buffer (R254, check 5). -/
theorem pool_of_grChecks {s : State} (h : firstFailing (grChecks s) = none) : s.poolLen ≤ s.cfg.poolCap := by
  by_contra hpool
  have hcheck : decide (s.poolLen > s.cfg.poolCap) = true := by simpa using hpool
  simp only [grChecks, hcheck, firstFailing] at h
  split_ifs at h

/-! ## Invariants about the fault registers -/

/-- `P` is kept by each kind of move that the machine makes: by those that leave the fault registers alone, those that
clear them, the faults of a command on its operands, and the moves of the two commands that can fault part-way. -/
structure FaultInvariant (P : State → Prop) : Prop where
  /-- between commands `P` is about the configuration and the fault registers -/
  same : ∀ {s t : State}, s.phase = .idle → P s → s.SameFault t → P t
  /-- after a reset -/
  cleared : ∀ {s t : State}, P s → t.cfg = s.cfg → t.phase = .idle → t.err = 0#8 → t.errInfo = 0#32 → P t
  /-- after a fault between commands -/
  raised : ∀ {s : State} {c : Cause} {info : Nat}, s.phase = .idle → P s → c.BoundsDetail info →
    c.FitsDetail s.cfg info → P (raise c info s)
  /-- at the beginning of `LZ.DECOMP` -/
  lzBegin : ∀ {s : State}, P s → s.inLen ≤ s.cfg.ibufCap → P (lzBegin s)
  /-- at each move of it -/
  lzMicro : ∀ {s : State}, s.phase = .lzDecomp → P s → P (lzMicro s)
  /-- at the beginning of `GR.DEC` -/
  grBegin : ∀ {s : State} (b : Byte), P s → firstFailing (grChecks s) = none → 0 < s.poolLen → P (grBegin b s)
  /-- where its first fetch faults -/
  grAbort : ∀ {s : State}, P s → P (grAbort .grIndexRange 0 s)
  /-- at each move of it -/
  grMicro : ∀ {s : State}, s.phase = .grDec → P s → P (grMicro s)

section
variable {P : State → Prop} {s t : State}

theorem FaultInvariant.checked (hP : FaultInvariant P) (hp : s.phase = .idle) (hs : P s)
    {checks : State → List (Bool × Nat)} (hchecks : checks ∈ [decompChecks, compChecks, grChecks])
    {f : State → State} (hf : firstFailing (checks s) = none → P (f s)) : P (whenReady (checked checks f) s) :=
  whenReady_cases P _ s hs fun _ =>
    checked_cases P checks f s (fun _ hk => hP.raised hp hs (firstFailing_le hchecks hk) trivial) hf

theorem FaultInvariant.lzDecomp (hP : FaultInvariant P) (hs : P s) (hlen : s.inLen ≤ s.cfg.ibufCap) :
    P (lzDecomp s) := by
  rw [Machine.lzDecomp, lzRun_eq_movesOf]
  exact movesOf_keeps_of_phase (fun _ hp hu => hP.lzMicro hp hu) _ _ (hP.lzBegin hs hlen)

theorem FaultInvariant.grDec (hP : FaultInvariant P) (hs : P s) (hchecks : firstFailing (grChecks s) = none) :
    P (grDec s) := by
  unfold Machine.grDec
  split
  · exact hs
  · split
    · exact hP.grAbort hs
    · next b hb =>
      have hpool : 0 < s.poolLen := by
        by_contra hnone
        rw [fetchByte, if_pos (by omega)] at hb
        cases hb
      rw [grRun_eq_movesOf]
      exact movesOf_keeps_of_phase (fun _ hp hu => hP.grMicro hp hu) _ _ (hP.grBegin b hs hchecks hpool)

/-- Every command keeps an invariant of the fault registers. -/
theorem FaultInvariant.command (hP : FaultInvariant P) (hp : s.phase = .idle) (hs : P s) {i : Instr}
    (hi : isCommand i = true) (h : exec i s = .next t) : P t := by
  have hplain {f : State → State} (hf : s.SameFault (f s)) : P (whenReady f s) :=
    whenReady_cases P f s hs fun _ => hP.same hp hs hf
  cases i <;> cases h
  case sysReset => exact hP.cleared hs rfl rfl rfl rfl
  case lzComp => exact hP.checked hp hs (by simp) fun _ => hP.same hp hs (lzComp_sameFault s)
  case lzCblk => exact hP.checked hp hs (by simp) fun _ => hP.same hp hs (lzCblk_sameFault s)
  case lzDecomp =>
    exact hP.checked hp hs (by simp) fun hchecks => hP.lzDecomp hs ((decompChecks_pass s).mp hchecks)
  case grDec => exact hP.checked hp hs (by simp) fun hchecks => hP.grDec hs hchecks
  case lzRestore =>
    refine whenReady_cases P _ s hs fun _ => ?_
    unfold lzRestore
    split
    · exact hP.same hp hs (s.setLzc_sameFault s.snap)
    · exact hP.raised hp hs rfl trivial
  case lzCreset | lzStore | lzDreset | lzPrime | pkGt | pkAdd | pkAvg | pkMed =>
    exact hplain ⟨⟨rfl, rfl, rfl, rfl⟩, rfl, rfl⟩
  all_goals cases hi

/-- Every step keeps an invariant of the fault registers. -/
theorem FaultInvariant.step (hP : FaultInvariant P) (hs : P s) (h : step s = .next t) : P t := by
  have hrule := step_rule s
  generalize Machine.step s = o at h hrule
  cases hrule with
  | waits hp he =>
    cases h
    exact hs
  | powersOn hp rest he =>
    cases h
    exact hP.cleared hs rfl rfl rfl rfl
  | accesses hp a rest he => exact hP.same hp hs ((s.setEvents_sameFault rest).trans (hostAccess_sameFault h))
  | commands hp w rest i he hd =>
    have hs' := hP.same hp hs (s.setEvents_sameFault rest)
    exact hP.command (s := s.setEvents rest) hp hs' (isCommand_of_decodeCommand hd) h
  | illegal hp w rest r he hd =>
    cases h
    have hs' := hP.same hp hs (s.setEvents_sameFault rest)
    refine whenReady_cases P _ _ hs' fun _ => hP.raised (s := s.setEvents rest) hp hs' trivial fun i hi => ?_
    rw [BitVec.ofNat_toNat, BitVec.setWidth_eq, hd] at hi
    cases hi
  | lzMove hp =>
    cases h
    exact hP.lzMicro hp hs
  | grMove hp =>
    cases h
    exact hP.grMicro hp hs
  | refused hp he =>
    cases h
    exact hs

end

/-! ## The two invariants -/

theorem lzAbort_holds (c : Cause) (info : Nat) (s : State) : (lzAbort c info s).HoldsFault c info :=
  ⟨lzAbort_err c info s, lzAbort_errInfo c info s⟩

theorem grAbort_holds (c : Cause) (info : Nat) (s : State) : (grAbort c info s).HoldsFault c info := by
  obtain ⟨m, hm⟩ := grAbort_frame c info s
  rw [hm]
  exact raise_holds _ _ _

theorem errorsOk_invariant : FaultInvariant State.ErrorsOk where
  same _ hs h := by
    unfold State.ErrorsOk
    rw [h.err, h.errInfo]
    exact hs
  cleared _ _ _ herr hinfo := by
    unfold State.ErrorsOk
    rw [herr, hinfo]
    decide
  raised _ _ hbounds _ := (raise_holds _ _ _).errorsOk hbounds
  lzBegin hs _ := hs
  lzMicro {s} _ hs := by
    have hmove := lzMicro_move s
    generalize Machine.lzMicro s = t at hmove
    cases hmove with
    | finishes => exact hs
    | aborts h => exact (lzAbort_holds _ _ s).errorsOk (by cases h <;> trivial)
    | goesOn d m hip hlen hop => exact hs
  grBegin _ hs _ _ := hs
  grAbort _ := (grAbort_holds _ _ _).errorsOk trivial
  grMicro {s} _ hs := by
    have hmove := grMicro_move s
    generalize Machine.grMicro s = t at hmove
    cases hmove with
    | finishes => exact hs
    | aborts h => exact (grAbort_holds _ _ s).errorsOk (by cases h <;> trivial)
    | goesOn m h => exact hs

/-- With capacities of R6, the transient values of the running command and the detail of the fault are in their
ranges. -/
structure State.InRange (s : State) : Prop where
  /-- the capacities -/
  valid : s.cfg.Valid
  /-- the transient values -/
  command : s.CommandOk
  /-- the detail -/
  details : s.DetailsOk

theorem State.DetailsOk.of_same {s t : State} (hs : s.DetailsOk) (hcfg : t.cfg = s.cfg) (herr : t.err = s.err)
    (hinfo : t.errInfo = s.errInfo) : t.DetailsOk := by
  rw [State.detailsOk_iff] at hs ⊢
  rwa [hcfg, herr, hinfo]

/-- A fault that ends a command, or comes between commands, with a detail in its range. -/
theorem State.InRange.of_holds {s t : State} {c : Cause} {info : Nat} (hvalid : s.cfg.Valid) (hcfg : t.cfg = s.cfg)
    (hp : t.phase = .idle) (h : t.HoldsFault c info) (hfits : c.FitsDetail s.cfg info) : t.InRange := by
  rw [← hcfg] at hvalid hfits
  exact ⟨hvalid, t.commandOk_of_idle hp, h.detailsOk hvalid hfits⟩

/-- While the transient values are in their ranges, so is the detail of each data fault of `LZ.DECOMP`. -/
theorem LzFault.fitsDetail {s : State} {c : Cause} {info : Nat} (h : LzFault s c info) (hp : s.phase = .lzDecomp)
    (hs : s.CommandOk) : c.FitsDetail s.cfg info := by
  obtain ⟨hlen, hip, hop, hbits⟩ := hs.lzDecomp hp
  cases h with
  | overflow hlen h => exact ⟨hop, by omega⟩
  | truncated hip hctrl hlen => exact ⟨by omega, by omega⟩

theorem State.CommandOk.inRange {s : State} (hs : s.CommandOk) (hp : s.phase = .grDec) :
    s.gr.InRange s.poolLen s.cfg.pixCap := by
  obtain ⟨-, hin, hbit, hfits, hlim, hacc⟩ := hs.grDec hp
  exact ⟨hin, hbit, hfits, hlim, hacc⟩

/-- While the transient values are in their ranges, so is the detail of each data fault of `GR.DEC`. -/
theorem GrFault.fitsDetail {s : State} {c : Cause} {info : Nat} (h : GrFault s c info) (hp : s.phase = .grDec)
    (hs : s.CommandOk) : c.FitsDetail s.cfg info := by
  obtain ⟨hpool, hin, hbit, hfits, hlim, hacc⟩ := hs.grDec hp
  cases h with
  | indexRange h => exact (h hbit hin).trans hpool
  | tableRange h => exact ⟨h, hacc⟩
  | overrun h => exact show s.gr.i < s.cfg.pixCap by omega

/-- The end of a command keeps the ranges. -/
theorem State.InRange.ended {s t : State} (hs : s.InRange) (hcfg : t.cfg = s.cfg) (hp : t.phase = .idle)
    (herr : t.err = s.err) (hinfo : t.errInfo = s.errInfo) : t.InRange :=
  ⟨hcfg ▸ hs.valid, t.commandOk_of_idle hp, hs.details.of_same hcfg herr hinfo⟩

theorem State.InRange.lzMicro {s : State} (hp : s.phase = .lzDecomp) (hs : s.InRange) : (lzMicro s).InRange := by
  have hmove := lzMicro_move s
  generalize Machine.lzMicro s = t at hmove
  cases hmove with
  | finishes => exact hs.ended rfl rfl rfl rfl
  | aborts h =>
    exact .of_holds hs.valid (lzAbort_cfg _ _ s) (lzAbort_phase _ _ s) (lzAbort_holds _ _ s)
      (h.fitsDetail hp hs.command)
  | goesOn d m hip hlen hnew =>
    obtain ⟨hibuf, -, hop, -⟩ := hs.command.lzDecomp hp
    have hgr : s.phase ≠ .grDec := by simp [hp]
    exact ⟨hs.valid, ⟨fun _ => ⟨hibuf, hlen, hnew hop, fun _ => Nat.one_le_of_lt hip⟩, fun hp' => absurd hp' hgr⟩,
      hs.details.of_same rfl rfl rfl⟩

theorem State.InRange.grMicro {s : State} (hp : s.phase = .grDec) (hs : s.InRange) : (grMicro s).InRange := by
  have hmove := grMicro_move s
  generalize Machine.grMicro s = t at hmove
  cases hmove with
  | finishes => exact hs.ended rfl rfl rfl rfl
  | aborts h =>
    exact .of_holds hs.valid (grAbort_cfg _ _ s) (grAbort_idle _ _ s).1 (grAbort_holds _ _ s)
      (h.fitsDetail hp hs.command)
  | goesOn m h =>
    obtain ⟨hpool, -⟩ := hs.command.grDec hp
    obtain ⟨hin, hbit, hfits, hlim, hacc⟩ := h _ (hs.command.inRange hp)
    have hlz : s.phase ≠ .lzDecomp := by simp [hp]
    exact ⟨hs.valid, ⟨fun hp' => absurd hp' hlz, fun _ => ⟨hpool, hin, hbit, hfits, hlim, hacc⟩⟩,
      hs.details.of_same rfl rfl rfl⟩

/-- A fresh `LZ.DECOMP` has its cursors at 0 (R172). -/
theorem lzBegin_commandOk {s : State} (hlen : s.inLen ≤ s.cfg.ibufCap) : (lzBegin s).CommandOk where
  lzDecomp _ := ⟨hlen, Nat.zero_le _, Nat.zero_le _, fun h => absurd rfl h⟩
  grDec hp := nomatch hp

/-- A fresh `GR.DEC` has the pixels wanted before it and its bit cursor after the polarity bit (R192). -/
theorem grBegin_commandOk (b : Byte) {s : State} (hchecks : firstFailing (grChecks s) = none) (hpool : 0 < s.poolLen) :
    (grBegin b s).CommandOk where
  lzDecomp hp := nomatch hp
  grDec _ := ⟨pool_of_grChecks hchecks, hpool, show 1 < 8 by decide, Nat.le_add_right _ _,
    words_of_grChecks hchecks, show 0 < 2 ^ 16 by decide⟩

theorem inRange_invariant : FaultInvariant State.InRange where
  same hp hs h := hs.ended h.cfg (h.phase.trans hp) h.err h.errInfo
  cleared hs hcfg hp herr _ := ⟨hcfg ▸ hs.valid, State.commandOk_of_idle _ hp, State.detailsOk_of_err_zero _ herr⟩
  raised hp hs _ hfits := .of_holds hs.valid rfl hp (raise_holds _ _ _) hfits
  lzBegin hs hlen := ⟨hs.valid, lzBegin_commandOk hlen, hs.details.of_same rfl rfl rfl⟩
  lzMicro := State.InRange.lzMicro
  grBegin b hs hchecks hpool := ⟨hs.valid, grBegin_commandOk b hchecks hpool, hs.details.of_same rfl rfl rfl⟩
  grAbort {s} hs := .of_holds hs.valid (grAbort_cfg _ _ s) (grAbort_idle _ _ s).1 (grAbort_holds _ _ s)
    (Nat.zero_le _)
  grMicro := State.InRange.grMicro

/-- Settles O13: the codes and the ranges are each kept by every kind of move. -/
theorem stepKeepsErrorCodes : Obligations.StepKeepsErrorCodes := by
  intro s t h
  refine ⟨fun hs => errorsOk_invariant.step hs h, fun hvalid hcommand hdetails => ?_⟩
  have ht := inRange_invariant.step ⟨hvalid, hcommand, hdetails⟩ h
  exact ⟨ht.command, ht.details⟩

end Sys2Proof.Machine
end

section
/-! PROOFS. The results of the LZD commands and stream items (spec/42_lz_decompress.md R171 to R175): the priming
pattern, control bytes, literals and overlapping matches, and the data faults of `LZ.DECOMP`. Settles O36, O37, O38,
O40, O41. -/

namespace Sys2Proof.Machine

/-! ## The priming pattern (R171) -/

/-- The ring is filled by blocks of eight bytes, one for each `i` and `j`: in block `16 * i + j` the first four bytes
are `i` and the others `j`. -/
theorem primeByte_block {i j k : Nat} (hj : j < 16) (hk : k < 4) :
    primeByte (8 * (16 * i + j) + k) = BitVec.ofNat 8 i ∧
      primeByte (8 * (16 * i + j) + 4 + k) = BitVec.ofNat 8 j := by
  constructor
  · rw [primeByte, if_pos (by omega)]
    exact congrArg _ (by omega)
  · rw [primeByte, if_neg (by omega)]
    exact congrArg _ (by omega)

/-- Settles O36: the primed ring is the pattern at each of its 4096 positions. -/
theorem lzPrimeResult : Obligations.LzPrimeResult := by
  intro s he
  have hget {p : Nat} (hp : p < 4096) : Lzd.primed.get (BitVec.ofNat 12 p) = primeByte p := by
    rw [Lzd.get_primed, BitVec.toNat_ofNat, Nat.mod_eq_of_lt hp]
  refine ⟨lzPrime s, next_whenReady lzPrime he, rfl, Lzd.dr_primed, fun i j k hi hj hk => ?_⟩
  obtain ⟨hfirst, hsecond⟩ := primeByte_block (i := i) hj hk
  exact ⟨(hget (by omega)).trans hfirst, (hget (by omega)).trans hsecond⟩

/-! ## The data faults of `LZ.DECOMP` (R172, spec/60_exceptions.md R256 (b)) -/

/-- What a data fault of `LZ.DECOMP` leaves. -/
theorem lzAbort_faulted (c : Cause) (info : Nat) (s : State) : LzFaulted s (lzAbort c info s) c.code info := rfl

/-- A stream item run without a fault before it does what it does. -/
theorem exec_tokenInstr_ready (t : LzToken) {s : State} (he : s.err = 0#8) :
    exec t.instr s = .next (runToken t s) := by
  rw [exec_tokenInstr, whenReady_ready _ s he]

/-- Where `LZ.DECOMP` fetches no item but a fault, the step is that fault. -/
theorem step_of_lzFetch_raise {s : State} {c : Cause} {info : Nat} (hp : s.phase = .lzDecomp)
    (hf : lzFetch s = .raise c info) : step s = .next (lzAbort c info s) := by
  simp only [step, fetch, hp, fetchToken, hf]

/-- A token cut short is a fault at the byte where that is found (R172). -/
theorem lzFetch_of_decodeItem_truncated {s : State} {used : Nat} (hip : s.lz.ip < s.inLen)
    (h : s.decodeItem = .reject (.truncated used)) : lzFetch s = .raise .lzTruncated (s.lz.ip + used) := by
  rw [lzFetch, if_neg (by omega), h]

theorem litItem_overflow (c : Byte) {s : State} (h : s.cfg.obufCap < s.lz.op + 1) :
    litItem c s = lzAbort .outOverflow s.lz.op s := if_pos h

theorem matchItem_overflow (bytes : Nat) {len : Nat} (p : Pos) {s : State} (h : s.cfg.obufCap < s.lz.op + len) :
    matchItem bytes len p s = lzAbort .outOverflow s.lz.op s := if_pos h

/-- A match of which only the first byte is left is cut there, a long match without its extension byte after the second
(R172). -/
theorem decodeItem_of_cut_match {s : State} (hbits : s.lz.nbits ≠ 0) (hkind : s.lz.ctrl.getLsbD 0 = true) :
    (s.inLen = s.lz.ip + 1 → s.decodeItem = .reject (.truncated 0)) ∧
    (s.inLen = s.lz.ip + 2 → (s.readByte .ibuf (s.lz.ip + 1)).extractLsb' 4 4 = 15#4 →
      s.decodeItem = .reject (.truncated 2)) := by
  rw [State.decodeItem, if_neg hbits, hkind]
  constructor
  · intro hlen
    have hitem : s.itemBytes = [s.readByte .ibuf s.lz.ip] := by
      rw [State.itemBytes, hlen, Nat.add_sub_cancel_left]
      rfl
    rw [hitem]
    rfl
  · intro hlen hlong
    have hitem : s.itemBytes = [s.readByte .ibuf s.lz.ip, s.readByte .ibuf (s.lz.ip + 1)] := by
      rw [State.itemBytes, hlen, Nat.add_sub_cancel_left]
      rfl
    rw [hitem]
    exact if_pos hlong

/-- Settles O37: by whether the control byte is the last byte of the input. -/
theorem ctrlResult : Obligations.CtrlResult := by
  intro s f he
  have hexec : exec (.ctrl f) s = .next (ctrlItem f s) := exec_tokenInstr_ready (.ctrl f) he
  refine ⟨fun hmore => ?_, fun hlast => ⟨_, hexec, ?_⟩⟩
  · rw [hexec, ctrlItem, if_neg hmore]
  · rw [ctrlItem, if_pos hlast]
    exact lzAbort_faulted .lzTruncated _ s

/-- Settles O41: `OUT_OVERFLOW` by the check of each token, `LZ_TRUNCATED` by where the fetch finds the token cut. -/
theorem tokenFaults : Obligations.TokenFaults := by
  refine ⟨fun s i len he hform hover => ?_, fun s hp hbits hkind => ?_⟩
  · have hfault (t : LzToken) (h : runToken t s = lzAbort .outOverflow s.lz.op s) :
        ∃ u : State, exec t.instr s = .next u ∧ LzFaulted s u 3#8 s.lz.op :=
      ⟨_, (exec_tokenInstr_ready t he).trans (congrArg _ h), lzAbort_faulted .outOverflow _ s⟩
    rcases hform with ⟨c, rfl, rfl⟩ | ⟨p, lc, rfl, rfl⟩ | ⟨p, ext, rfl, rfl⟩
    · exact hfault (.lit c) (litItem_overflow c hover)
    · exact hfault (.short p lc) (matchItem_overflow 2 p hover)
    · exact hfault (.long p ext) (matchItem_overflow 3 p hover)
  · obtain ⟨hfirst, hsecond⟩ := decodeItem_of_cut_match hbits hkind
    have hfault {used : Nat} (hip : s.lz.ip < s.inLen) (h : s.decodeItem = .reject (.truncated used)) :
        ∃ t : State, step s = .next t ∧ LzFaulted s t 4#8 (s.lz.ip + used) :=
      ⟨_, step_of_lzFetch_raise hp (lzFetch_of_decodeItem_truncated hip h), lzAbort_faulted .lzTruncated _ s⟩
    exact ⟨fun hlen => hfault (by omega) (hfirst hlen), fun hlen hlong => hfault (by omega) (hsecond hlen hlong)⟩

/-! ## Literals and overlapping matches (R174, R175) -/

/-- Settles O38: a literal that fits is the output of one byte. -/
theorem litResult : Obligations.LitResult := by
  intro s c he hfits
  have hout : runToken (.lit c) s = s.produced (s.lzd.push c, [c]) (s.lz.past 1 1 1) :=
    runToken_eq_produced (t := .lit c) rfl hfits
  refine ⟨_, exec_tokenInstr_ready (.lit c) he, ?_⟩
  rw [hout]
  refine ⟨rfl, rfl, fun p => Lzd.get_push s.lzd c p, fun a => ?_, rfl⟩
  rw [State.readByte_produced]
  by_cases ha : a = s.lz.op
  · simp [ha]
  · rw [dif_neg (by simp only [List.length_singleton]; omega), if_neg ha]

/-- Settles O40: a copied byte `w` or more after the first is the one `w` before it, and an earlier one is a byte of the
last `w` in the ring. -/
theorem overlappingMatchRepeats : Obligations.OverlappingMatchRepeats := by
  intro s w he hw hw' i len hform hfits
  obtain ⟨bytes, hform, hlen⟩ : ∃ bytes : Nat,
      ((∃ lc : BitVec 4, i = .lzMatch (s.lzd.dr - BitVec.ofNat 12 w) lc ∧ bytes = 2 ∧ len = lc.toNat + 3) ∨
        (∃ ext : Byte, i = .lzMatchx (s.lzd.dr - BitVec.ofNat 12 w) ext ∧ bytes = 3 ∧ len = 18 + ext.toNat)) ∧
      len ≤ 4096 := by
    rcases hform with ⟨lc, hi, hlen⟩ | ⟨ext, hi, hlen⟩
    · exact ⟨2, .inl ⟨lc, hi, rfl, hlen⟩, by have := lc.isLt; omega⟩
    · exact ⟨3, .inr ⟨ext, hi, rfl, hlen⟩, by have := ext.isLt; omega⟩
  obtain ⟨t, hexec, -, hcopied, -, hring, -⟩ := matchResult s _ he i bytes len hform hfits
  have hbytes : ∀ a : Nat, a < len → t.readByte .obuf (s.lz.op + a) =
      s.lzd.get (s.lzd.dr - BitVec.ofNat 12 w + BitVec.ofNat 12 (a % w)) := by
    intro a
    induction a using Nat.strong_induction_on with
    | _ a ih =>
      intro ha
      rw [hcopied a ha]
      by_cases haw : a < w
      · have hsource : ¬(s.lzd.dr - BitVec.ofNat 12 w + BitVec.ofNat 12 a - s.lzd.dr).toNat < a := by bv_omega
        rw [if_neg hsource, Nat.mod_eq_of_lt haw]
      · have hsource : (s.lzd.dr - BitVec.ofNat 12 w + BitVec.ofNat 12 a - s.lzd.dr).toNat = a - w := by bv_omega
        rw [hsource, if_pos (by omega), ih (a - w) (by omega) (by omega), ← Nat.mod_eq_sub_mod (by omega)]
  refine ⟨t, hexec, hbytes, fun hwhole q => ?_⟩
  rw [hring q]
  split
  · next hq =>
    have hlt := (q - s.lzd.dr).isLt
    rw [hbytes _ hq, hwhole, Nat.mod_eq_of_lt hlt]
    exact congrArg _ (by bv_omega)
  · rfl

end Sys2Proof.Machine
end

section
/-! PROOFS. The tables and the codes of `GR.DEC` (spec/43_golomb.md R190 to R200): the two tables by their defining
properties, which code a step runs, and what a run length and a residual write. Settles O6, O9, O45, O46. -/

namespace Sys2Proof.Machine

/-! ## The tables (R190, R191) -/

/-- The accumulator values from which on the next parameter holds: the sums of a row's first entries, from `base` on
(R191). -/
def thresholds : Nat → List Nat → List Nat
  | _, [] => []
  | base, c :: cs => (base + c) :: thresholds (base + c) cs

theorem le_of_mem_thresholds {base t : Nat} {cs : List Nat} (h : t ∈ thresholds base cs) : base ≤ t := by
  induction cs generalizing base with
  | nil => cases h
  | cons c cs ih =>
    rcases List.mem_cons.mp h with rfl | h
    · exact Nat.le_add_right _ _
    · exact (Nat.le_add_right _ _).trans (ih h)

/-- The parameter in force is the number of thresholds reached. -/
theorem runIndex_eq_count (cs : List Nat) (base a i : Nat) :
    runIndex cs a i = i + ((thresholds base cs).filter (fun t => decide (t ≤ base + a))).length := by
  induction cs generalizing base a i with
  | nil => rfl
  | cons c cs ih =>
    rw [runIndex, thresholds]
    split
    · next hlt =>
      have hnone : ((base + c) :: thresholds (base + c) cs).filter (fun t => decide (t ≤ base + a)) = [] := by
        refine List.filter_eq_nil_iff.mpr fun t ht => ?_
        have hle : base + c ≤ t := by
          rcases List.mem_cons.mp ht with rfl | ht
          · exact le_rfl
          · exact le_of_mem_thresholds ht
        simp only [decide_eq_true_eq]
        omega
      rw [hnone, List.length_nil, Nat.add_zero]
    · next hge =>
      rw [ih (base + c) (a - c) (i + 1), show base + c + (a - c) = base + a by omega,
        List.filter_cons_of_pos (by simp only [decide_eq_true_eq]; omega), List.length_cons]
      omega

/-- `GBL` below 1024 by a row's thresholds; the last one, 1024, is never reached. -/
theorem gbl_eq_count {a n : Nat} {ts : List Nat} (ha : a < 1024) (hrow : thresholds 0 (gc n) = ts ++ [1024]) :
    gbl a n = (ts.filter (fun t => decide (t ≤ a))).length := by
  have hlast : [1024].filter (fun t => decide (t ≤ a)) = [] := List.filter_cons_of_neg (by simpa using ha)
  rw [gbl, runIndex_eq_count (gc n) 0 a 0, hrow, Nat.zero_add, Nat.zero_add, List.filter_append, hlast, List.append_nil]

/-- `LZT` of a window with a 1 in it: one plus the place of the lowest 1 (R190). -/
theorem lzt_of_ne_zero {w : BitVec 12} (hw : w ≠ 0#12) :
    ∃ n < 12, lzt w = n + 1 ∧ (∀ j : Nat, j < n → w.getLsbD j = false) ∧ w.getLsbD n = true := by
  rcases firstOne_spec 12 w.toNat with ⟨-, hbits⟩ | h
  · exact absurd (BitVec.eq_of_getLsbD_eq fun j hj => (hbits j hj).trans BitVec.getLsbD_zero.symm) hw
  · exact h

/-- Settles O6: the lowest 1 of the window, and the thresholds of each row. -/
theorem golombTables : Obligations.GolombTables := by
  refine ⟨⟨rfl, fun w hw => ?_⟩, fun a ha => ⟨?_, ?_, ?_, ?_⟩⟩
  · obtain ⟨n, hn, hlzt, hzeros, hone⟩ := lzt_of_ne_zero hw
    rw [hlzt, Nat.add_sub_cancel]
    exact ⟨Nat.succ_pos n, hn, hone, hzeros⟩
  all_goals exact gbl_eq_count ha rfl

/-! ## Which code a step runs (R192) -/

/-- Where `GR.DEC` fetches a code, the step runs it. -/
theorem step_of_grFetch_code {s : State} {c : GrCode} (hp : s.phase = .grDec) (hf : grFetch s = .code c) :
    step s = exec c.instr s := by
  simp only [step, fetch, hp, fetchCode, hf]

/-- Settles O9: between runs the fetch reads a run length, inside a run a residual. -/
theorem stepRunsGolombCode : Obligations.StepRunsGolombCode := by
  intro s code next hp
  refine ⟨fun hrun hi hgamma => step_of_grFetch_code hp ?_, fun hrun ha hvalue => step_of_grFetch_code hp ?_⟩
  · rw [grFetch, if_pos hrun, if_neg (by omega), hgamma]
  · rw [grFetch, if_neg hrun, if_neg (by omega), State.golombParam, hvalue]

/-! ## What the codes write (R195, R198, R200) -/

/-- A byte zero-extended to a word stands in its lane 0; the other lanes are 0. -/
theorem extractLsb'_zeroExtend (e : Byte) (k : Nat) :
    (e.zeroExtend 32 : Word).extractLsb' (8 * k) 8 = if k = 0 then e else 0#8 := by
  refine BitVec.eq_of_getLsbD_eq fun j hj => ?_
  rw [BitVec.getLsbD_extractLsb', BitVec.getLsbD_setWidth]
  split
  · next hk => simp [hk, hj, show j < 32 by omega]
  · simp [show 8 ≤ 8 * k + j by omega]

/-- What a byte of `PIX` reads as after a pixel was written. -/
theorem readByte_putPix (i : Nat) (e : Byte) (s : State) (a : Nat) :
    (putPix i e s).readByte .pix a =
      if s.x.first = 1#32 then (if a = 4 * i then e else if a / 4 = i then 0#8 else s.readByte .pix a)
      else if a = 4 * i + s.x.chan.toNat then e else s.readByte .pix a := by
  unfold putPix
  split
  · rw [State.readByte_writePixWord, extractLsb'_zeroExtend]
    by_cases hlow : a = 4 * i
    · rw [if_pos (by omega), if_pos (by omega), if_pos hlow]
    · rw [if_neg hlow]
      split
      · rw [if_neg (by omega)]
      · rfl
  · rw [State.writePixLane, State.readByte_writeByte]
    simp only [true_and]

/-- What a byte of `PIX` reads as after a row of zero pixels was written. -/
theorem readByte_putZeros {s : State} (hchan : s.x.chan.toNat ≤ 3) (n i a : Nat) :
    (putZeros n i s).readByte .pix a =
      if 4 * i ≤ a ∧ a < 4 * (i + n) ∧ (s.x.first = 1#32 ∨ a % 4 = s.x.chan.toNat) then 0#8
      else s.readByte .pix a := by
  induction n generalizing i s with
  | zero => rw [putZeros, if_neg (by omega)]
  | succ n ih =>
    rw [putZeros, ih (by rwa [putPix_x]), putPix_x, readByte_putPix]
    by_cases hfirst : s.x.first = 1#32
    · simp only [hfirst, true_or, and_true, if_true]
      grind
    · simp only [hfirst, false_or, if_false]
      grind

/-! ## Run lengths (R194, R195) -/

/-- Settles O45: the zero run's pixels byte by byte, and the non-zero run by its cursor alone. -/
theorem gammaResult : Obligations.GammaResult := by
  intro s z k he hz hfits hchan
  have hexec : exec (.gamma z k) s = .next (gammaCode z k s) := exec_codeInstr_ready (.gamma z k) he
  have hroom : ¬(25 ≤ z ∨ s.gr.i + (2 ^ z + k) > s.gr.lim) := by omega
  rw [hexec, gammaCode, if_neg hroom]
  refine ⟨fun hzero => ?_, fun hzero => by rw [hzero]; rfl⟩
  rw [if_pos hzero]
  obtain ⟨m, hm⟩ := putZeros_frame (2 ^ z + k) s.gr.i s
  refine ⟨_, rfl, by rw [hm]; rfl, fun a => ?_⟩
  exact readByte_putZeros hchan (2 ^ z + k) s.gr.i a

/-! ## Residuals (R196 to R200) -/

/-- The residual is the signed number, truncated (R198). -/
theorem signMap_eq_ofInt (evenPositive : Bool) (v : Nat) :
    signMap evenPositive v = BitVec.ofInt 8 (if decide (v % 2 = 0) = evenPositive then ((v / 2 + 1 : Nat) : Int)
      else -((v / 2 + 1 : Nat) : Int)) := by
  unfold signMap
  split
  · rw [BitVec.ofInt_natCast]
  · rw [BitVec.ofInt_neg, BitVec.ofInt_natCast]

/-- Adapting steps the context, and halves the accumulator where it wraps (R199). -/
theorem GrCursor.adapt_context (g : GrCursor) (v : Nat) :
    (g.adapt v).n = (if g.n = 0 then 3 else g.n - 1) ∧
      (g.adapt v).a = (if g.n = 0 then (g.a + v / 2) / 2 else g.a + v / 2) ∧ (g.adapt v).zero = g.zero := by
  unfold GrCursor.adapt
  split <;> exact ⟨rfl, rfl, rfl⟩

/-- Counting leaves the context, and flips the toggle after the last residual of the run (R192). -/
theorem GrCursor.countOne_context (g : GrCursor) :
    g.countOne.n = g.n ∧ g.countOne.zero = if g.run ≤ 1 then true else g.zero := by
  unfold GrCursor.countOne
  split <;> exact ⟨rfl, rfl⟩

/-- Settles O46: the pixel byte by byte, and the cursor field by field. -/
theorem residualResult : Obligations.ResidualResult := by
  intro s i v cur he ha hchan hform
  have hin : ¬1024 ≤ s.gr.a := by omega
  have hexec : exec i s = .next (takeResidual v cur s) := by
    rcases hform with ⟨q, r, rfl, rfl, rfl⟩ | ⟨q, r, rfl, rfl, rfl⟩
    · exact (exec_codeInstr_ready (.golomb q r) he).trans (congrArg _ (if_neg hin))
    · exact (exec_codeInstr_ready (.golombx q r) he).trans (congrArg _ (if_neg hin))
  obtain ⟨hai, hal, har⟩ := s.gr.adapt_place v
  obtain ⟨han, haa, haz⟩ := s.gr.adapt_context v
  obtain ⟨hci, hcl, hcr⟩ := (s.gr.adapt v).countOne_place
  obtain ⟨hcn, hcz⟩ := (s.gr.adapt v).countOne_context
  obtain ⟨m, hm⟩ := putPix_frame s.gr.i (signMap s.cfg.evenPositive v) s
  refine ⟨takeResidual v cur s, signMap s.cfg.evenPositive v, hexec, signMap_eq_ofInt _ v, ?_, readByte_putPix s.gr.i _ s,
    ?_⟩
  · rw [takeResidual, hm]
    rfl
  · simp only [takeResidual, State.gr_setGr, hci, hai, hcl, hal, hcn, han, GrCursor.countOne_acc, haa, hcr, har, hcz, haz,
      and_self]

end Sys2Proof.Machine
end

section
/-! PROOFS. `GR.DEC` on two states with the same operands, pool and parameters (spec/43_golomb.md R202): their runs go
step by step together, writing the same target lanes, and end with the same fault or with none. Settles O50. -/

namespace Sys2Proof.Machine

/-! ## What the fetches read (R193 to R197) -/

section
variable {pool pool' : Nat → Byte} {len : Nat} (h : ∀ a : Nat, a < len → pool a = pool' a)
include h

theorem fetchByte_congr (bp : Nat) : fetchByte pool len bp = fetchByte pool' len bp := by
  unfold fetchByte
  split
  · rfl
  · rw [h bp (by omega)]

theorem window_congr (c : BitCursor) : window pool len c = window pool' len c := by
  by_cases hfit : c.bp + 4 ≤ len
  · rw [window_of_fits hfit, window_of_fits hfit, windowWord, windowWord, h c.bp (by omega), h (c.bp + 1) (by omega),
      h (c.bp + 2) (by omega), h (c.bp + 3) (by omega)]
  · rw [window_of_misses (by omega), window_of_misses (by omega)]

theorem skipZeros_congr (fuel : Nat) (c : BitCursor) (z : Nat) :
    skipZeros pool len fuel c z = skipZeros pool' len fuel c z := by
  induction fuel generalizing c z with
  | zero => rw [skipZeros, skipZeros, window_congr h]
  | succ fuel ih => simp only [skipZeros, window_congr h, ih]

theorem gammaAt_congr (c : BitCursor) : gammaAt pool len c = gammaAt pool' len c := by
  simp only [gammaAt, skipZeros_congr h, window_congr h]

theorem valueAt_congr (k : Nat) (c : BitCursor) : valueAt pool len k c = valueAt pool' len k c := by
  simp only [valueAt, escapeAt, skipZeros_congr h, window_congr h, fetchByte_congr h]

end

/-! ## Two states with the same operands, pool and parameters -/

/-- The two states give `GR.DEC` the same operands, pool below `POOL_LEN` and sign polarity (R202). -/
structure SameGrInputs (s u : State) : Prop where
  /-- the first word -/
  pixBase : s.x.pixBase = u.x.pixBase
  /-- how many words -/
  pixCount : s.x.pixCount = u.x.pixCount
  /-- the lane -/
  chan : s.x.chan = u.x.chan
  /-- whole words or one lane -/
  first : s.x.first = u.x.first
  /-- the pool's length -/
  poolLen : s.x.poolLen = u.x.poolLen
  /-- the sign polarity -/
  polarity : s.cfg.evenPositive = u.cfg.evenPositive
  /-- the pool's bytes -/
  pool : ∀ a : Nat, a < s.poolLen → s.poolByte a = u.poolByte a

section
variable {s u : State}

/-- What leaves the registers, the pool and the configuration of two states alone leaves their inputs the same. -/
theorem SameGrInputs.of_frame (h : SameGrInputs s u) {t v : State} (hs : GrFrame s t) (hu : GrFrame u v) :
    SameGrInputs t v := by
  obtain ⟨hbase, hcount, hchan, hfirst, hlen, hpolarity, hpool⟩ := h
  have hbyte {r w : State} (hf : GrFrame r w) (a : Nat) : w.poolByte a = r.poolByte a :=
    congrArg (fun m : Memory => m.read .pool a) hf.pool
  refine ⟨by rwa [hs.x, hu.x], by rwa [hs.x, hu.x], by rwa [hs.x, hu.x], by rwa [hs.x, hu.x], by rwa [hs.x, hu.x],
    by rwa [hs.cfg, hu.cfg], fun a ha => ?_⟩
  rw [State.poolLen, hs.x] at ha
  rw [hbyte hs, hbyte hu]
  exact hpool a ha

theorem SameGrInputs.poolLen_eq (h : SameGrInputs s u) : s.poolLen = u.poolLen := congrArg BitVec.toNat h.poolLen

theorem SameGrInputs.pixCount_eq (h : SameGrInputs s u) : s.pixCount = u.pixCount := congrArg BitVec.toNat h.pixCount

theorem SameGrInputs.pixBase_eq (h : SameGrInputs s u) : s.pixBase = u.pixBase := congrArg BitVec.toNat h.pixBase

/-- With the same capacities the operand checks are the same (R254). -/
theorem SameGrInputs.grChecks_eq (h : SameGrInputs s u) (hpool : s.cfg.poolCap = u.cfg.poolCap)
    (hpix : s.cfg.pixCap = u.cfg.pixCap) : grChecks s = grChecks u := by
  simp only [grChecks, h.chan, h.first, h.poolLen_eq, h.pixBase_eq, h.pixCount_eq, hpool, hpix]

/-- At the same place the two decoders fetch the same (R192). -/
theorem SameGrInputs.grFetch_eq (h : SameGrInputs s u) (hgr : s.gr = u.gr) : grFetch s = grFetch u := by
  have hpool : ∀ a : Nat, a < u.poolLen → s.poolByte a = u.poolByte a := fun a ha => h.pool a (by rwa [h.poolLen_eq])
  simp only [grFetch, State.golombParam, hgr, h.poolLen_eq, gammaAt_congr hpool, valueAt_congr hpool]

/-! ## The lanes written so far (R200) -/

/-- The target lanes in the words below `n` hold the same in both states. -/
def AgreeBelow (n : Nat) (s u : State) : Prop :=
  ∀ a : Nat, s.targets a → a < 4 * n → s.readByte .pix a = u.readByte .pix a

/-- After the same pixel they agree on its word too. -/
theorem AgreeBelow.putPix {i : Nat} (hag : AgreeBelow i s u) (h : SameGrInputs s u) (e : Byte) :
    AgreeBelow (i + 1) (putPix i e s) (putPix i e u) := by
  intro a ha hlt
  rw [State.targets_congr (putPix_x i e s)] at ha
  rw [readByte_putPix, readByte_putPix, ← h.first, ← h.chan]
  by_cases hold : a < 4 * i
  · rw [hag a ha hold]
  · obtain ⟨-, -, hfirst | hlane⟩ := ha
    · rw [if_pos hfirst, if_pos hfirst, if_pos (show a / 4 = i by omega), if_pos (show a / 4 = i by omega)]
    · have hat : a = 4 * i + s.x.chan.toNat := by omega
      rw [if_pos hat, if_pos hat, if_pos (show a / 4 = i by omega), if_pos (show a / 4 = i by omega)]

/-- After the same row of zero pixels they agree on its words too. -/
theorem AgreeBelow.putZeros {i : Nat} (hag : AgreeBelow i s u) (h : SameGrInputs s u) (hchan : s.x.chan.toNat ≤ 3)
    (n : Nat) : AgreeBelow (i + n) (putZeros n i s) (putZeros n i u) := by
  intro a ha hlt
  rw [State.targets_congr (putZeros_x n i s)] at ha
  rw [readByte_putZeros hchan, readByte_putZeros (h.chan ▸ hchan), ← h.first, ← h.chan]
  by_cases hold : a < 4 * i
  · rw [hag a ha hold]
  · obtain ⟨-, -, hlane⟩ := ha
    have hin : 4 * i ≤ a ∧ a < 4 * (i + n) ∧ (s.x.first = 1#32 ∨ a % 4 = s.x.chan.toNat) := ⟨by omega, hlt, hlane⟩
    rw [if_pos hin, if_pos hin]

/-! ## The two runs together -/

/-- Two running `GR.DEC` at the same place, with the same inputs and the same target lanes written so far. -/
structure GrTwins (s u : State) : Prop where
  /-- the operands, the pool and the parameters -/
  inputs : SameGrInputs s u
  /-- the lane is one of four -/
  chan : s.x.chan.toNat ≤ 3
  /-- both are running -/
  phase : s.phase = .grDec ∧ u.phase = .grDec
  /-- neither has faulted -/
  err : s.err = 0#8 ∧ u.err = 0#8
  /-- the place -/
  gr : s.gr = u.gr
  /-- the words wanted -/
  lim : s.gr.lim = s.pixBase + s.pixCount
  /-- the lanes written -/
  written : AgreeBelow s.gr.i s u

/-- Both ended with the same fault, or both without one and with the same target lanes. -/
inductive SameGrOutcome (t v : State) : Prop
  /-- the same fault -/
  | faulted (c : Cause) (info : Nat) (ht : t.HoldsFault c info) (hv : v.HoldsFault c info)
  /-- no fault -/
  | completed (ht : t.err = 0#8) (hv : v.err = 0#8)
    (hpix : ∀ a : Nat, t.targets a → t.readByte .pix a = v.readByte .pix a)

/-- The two go on together, or have ended with the same outcome. -/
def GrTogether (s u : State) : Prop :=
  GrTwins s u ∨ s.phase = .idle ∧ u.phase = .idle ∧ SameGrOutcome s u

theorem grAbort_together (c : Cause) (info : Nat) (s u : State) : GrTogether (grAbort c info s) (grAbort c info u) :=
  .inr ⟨(grAbort_idle c info s).1, (grAbort_idle c info u).1,
    .faulted c info (grAbort_holds c info s) (grAbort_holds c info u)⟩

/-- Where both write lanes alike and go to the same place, they go on together. -/
theorem GrTwins.goesOn (h : GrTwins s u) {s' u' : State} (hs : ∃ m : Memory, s' = s.setPix m)
    (hu : ∃ m : Memory, u' = u.setPix m) {g : GrCursor} (hlim : g.lim = s.gr.lim) (hag : AgreeBelow g.i s' u') :
    GrTogether (s'.setGr g) (u'.setGr g) := by
  obtain ⟨m, rfl⟩ := hs
  obtain ⟨m', rfl⟩ := hu
  have hframe (r : State) (n : Memory) : GrFrame r ((r.setPix n).setGr g) :=
    ⟨⟨rfl, rfl, rfl⟩, rfl, rfl, rfl, rfl, rfl, rfl, rfl, rfl⟩
  exact .inl ⟨h.inputs.of_frame (hframe s m) (hframe u m'), h.chan, h.phase, h.err, rfl, hlim.trans h.lim, hag⟩

theorem GrTwins.gammaCode (h : GrTwins s u) (z k : Nat) : GrTogether (gammaCode z k s) (gammaCode z k u) := by
  unfold Machine.gammaCode
  rw [← h.gr]
  split
  · exact grAbort_together _ _ s u
  · split
    · exact h.goesOn (putZeros_frame _ _ s) (putZeros_frame _ _ u) rfl (h.written.putZeros h.inputs h.chan _)
    · exact h.goesOn ⟨s.pix, rfl⟩ ⟨u.pix, rfl⟩ rfl h.written

theorem GrTwins.takeResidual (h : GrTwins s u) (v : Nat) (c : BitCursor) :
    GrTogether (takeResidual v c s) (takeResidual v c u) := by
  obtain ⟨hai, hal, -⟩ := s.gr.adapt_place v
  obtain ⟨hci, hcl, -⟩ := (s.gr.adapt v).countOne_place
  unfold Machine.takeResidual
  rw [← h.gr, ← h.inputs.polarity]
  refine h.goesOn (putPix_frame _ _ s) (putPix_frame _ _ u) (hcl.trans hal) ?_
  show AgreeBelow (s.gr.adapt v).countOne.i _ _
  rw [hci, hai]
  exact h.written.putPix h.inputs _

/-- The same code keeps the two together (R194 to R197). -/
theorem GrTwins.runCode (h : GrTwins s u) (c : GrCode) : GrTogether (runCode c s) (runCode c u) := by
  cases c with
  | gamma z k => exact h.gammaCode z k
  | golomb q r =>
    simp only [Machine.runCode, golombCode, State.golombParam, ← h.gr]
    split
    · exact grAbort_together _ _ s u
    · exact h.takeResidual _ _
  | golombx q r =>
    simp only [Machine.runCode, golombxCode, State.golombParam, ← h.gr]
    split
    · exact grAbort_together _ _ s u
    · exact h.takeResidual _ _

/-- `GR.DEC` is done only with all pixels wanted produced (R192). -/
theorem lim_le_of_grFetch_done (h : grFetch s = .done) : s.gr.lim ≤ s.gr.i := by
  have hreject (i : Nat) (r : Reject) : grReject i r ≠ .done := by cases r <;> exact nofun
  unfold grFetch at h
  split at h
  · split at h
    · next hle => exact hle
    · split at h
      · cases h
      · exact absurd h (hreject _ _)
  · split at h
    · cases h
    · split at h
      · cases h
      · exact absurd h (hreject _ _)

/-- A move keeps the two together. -/
theorem GrTwins.grMicro (h : GrTwins s u) : GrTogether (grMicro s) (grMicro u) := by
  unfold Machine.grMicro
  rw [← h.inputs.grFetch_eq h.gr]
  cases hf : grFetch s with
  | done =>
    have hdone := lim_le_of_grFetch_done hf
    have hlim := h.lim
    refine .inr ⟨rfl, rfl, .completed h.err.1 h.err.2 fun a ha => ?_⟩
    have ha : s.targets a := ha
    have hend := ha.2.1
    exact h.written a ha (by omega)
  | raise c info => exact grAbort_together c info s u
  | code c => exact h.runCode c

/-- Their loops keep them together. -/
theorem GrTogether.movesOf (fuel : Nat) {s u : State} (h : GrTogether s u) :
    GrTogether (movesOf .grDec grMicro fuel s) (movesOf .grDec grMicro fuel u) := by
  induction fuel generalizing s u with
  | zero => exact h
  | succ fuel ih =>
    rcases h with htwins | ⟨hs, hu, hout⟩
    · rw [Machine.movesOf, Machine.movesOf, if_pos htwins.phase.1, if_pos htwins.phase.2]
      exact ih htwins.grMicro
    · rw [movesOf_of_idle (by decide) _ _ hs, movesOf_of_idle (by decide) _ _ hu]
      exact .inr ⟨hs, hu, hout⟩

/-- After the same polarity byte the two begin together (R192). -/
theorem SameGrInputs.grBegin_together (h : SameGrInputs s u) (hchan : s.x.chan.toNat ≤ 3) (hs : s.err = 0#8)
    (hu : u.err = 0#8) (b : Byte) : GrTogether (grBegin b s) (grBegin b u) := by
  refine .inl ⟨h.of_frame (grBegin_grFrame b s) (grBegin_grFrame b u), hchan, ⟨rfl, rfl⟩, ⟨hs, hu⟩, ?_, rfl,
    fun a ha hlt => ?_⟩
  · simp only [grBegin, State.gr_setGr, h.pixBase_eq, h.pixCount_eq]
  · exact absurd (Nat.lt_of_lt_of_le hlt ha.1) (lt_irrefl _)

/-- Past the checks, the two `GR.DEC` have the same outcome. -/
theorem SameGrInputs.grDec_outcome (h : SameGrInputs s u) (hchan : s.x.chan.toNat ≤ 3) (hs : s.err = 0#8)
    (hu : u.err = 0#8) : SameGrOutcome (grDec s) (grDec u) := by
  unfold grDec
  rw [← h.pixCount_eq, ← h.poolLen_eq, ← fetchByte_congr h.pool]
  split
  · next hnone =>
    refine .completed hs hu fun a ⟨hlo, hhi, _⟩ => ?_
    omega
  · split
    · exact .faulted _ _ (grAbort_holds _ _ s) (grAbort_holds _ _ u)
    · next b _ =>
      have hloop := (h.grBegin_together hchan hs hu b).movesOf (2 * s.pixCount + 1)
      rw [← grRun_eq_movesOf, ← grRun_eq_movesOf] at hloop
      rcases hloop with htwins | ⟨-, -, hout⟩
      · have hidle := (grRun_spec b hs).1.1
        rw [htwins.phase.1] at hidle
        cases hidle
      · exact hout

/-- With the same capacities, the two commands have the same outcome. -/
theorem SameGrInputs.checked_outcome (h : SameGrInputs s u) (hpool : s.cfg.poolCap = u.cfg.poolCap)
    (hpix : s.cfg.pixCap = u.cfg.pixCap) (hs : s.err = 0#8) (hu : u.err = 0#8) :
    SameGrOutcome (checked grChecks grDec s) (checked grChecks grDec u) := by
  have hchecks := h.grChecks_eq hpool hpix
  cases hfirst : firstFailing (grChecks s) with
  | some k =>
    rw [checked_fail _ _ s k hfirst, checked_fail _ _ u k (hchecks ▸ hfirst)]
    exact .faulted _ _ (raise_holds _ _ _) (raise_holds _ _ _)
  | none =>
    rw [checked_pass _ _ s hfirst, checked_pass _ _ u (hchecks ▸ hfirst)]
    exact h.grDec_outcome (chan_of_grChecks hfirst) hs hu

end

/-- Where `GR.DEC` raises no fault, `ERR_INFO` stays (R255). -/
theorem checked_grDec_errInfo (s : State) : (checked grChecks grDec s).err = 0#8 →
    (checked grChecks grDec s).errInfo = s.errInfo := by
  have hfault {t : State} {c : Cause} {info : Nat} (ht : t.HoldsFault c info) (he : t.err = 0#8) :
      t.errInfo = s.errInfo := absurd (ht.1.symm.trans he) c.code_ne_zero
  refine checked_cases (fun t => t.err = 0#8 → t.errInfo = s.errInfo) _ _ s (fun k _ => hfault (raise_holds _ k s))
    fun _ => grDec_keeps (P := fun t => t.err = 0#8 → t.errInfo = s.errInfo) (fun u hu => ?_) (fun _ => rfl)
      (hfault (grAbort_holds _ _ s)) fun _ _ => rfl
  rcases grMicro_cases u with h | ⟨c, info, h⟩ | ⟨m, g, h, -⟩ <;> rw [h]
  · exact hu
  · exact hfault (grAbort_holds c info u)
  · exact hu

/-- Settles O50: the two runs keep together, and the lanes that are no targets are kept by the frame. -/
theorem grDecDeterminism : Obligations.GrDecDeterminism := by
  intro s u hs hu hbase hcount hchan hfirst hlen hpolarity hpoolCap hpixCap hpool
  have hinputs : SameGrInputs s u := ⟨hbase, hcount, hchan, hfirst, hlen, hpolarity, hpool⟩
  have hexec : exec .grDec s = .next (checked grChecks grDec s) := next_whenReady (checked grChecks grDec) hs
  obtain ⟨hframe, hothers⟩ := grDecFrame s _ hexec
  refine ⟨_, _, hexec, next_whenReady (checked grChecks grDec) hu, ?_⟩
  rcases hinputs.checked_outcome hpoolCap hpixCap hs hu with ⟨c, info, ht, hv⟩ | ⟨ht, hv, hpix⟩
  · have hne : (checked grChecks grDec s).err ≠ 0#8 := ht.1 ▸ c.code_ne_zero
    exact ⟨ht.1.trans hv.1.symm, (ht.2.trans hv.2.symm).trans (if_neg hne).symm, fun he => absurd he hne⟩
  · have hx : (checked grChecks grDec s).x = s.x := by rw [hframe]; rfl
    refine ⟨ht.trans hv.symm, (checked_grDec_errInfo s ht).trans (if_pos ht).symm, fun _ a => ⟨fun ha => ?_, hothers a⟩⟩
    exact hpix a ((State.targets_congr hx a).mpr ha)

end Sys2Proof.Machine
end

section
/-! PROOFS. The packed-byte kernels (spec/44_packed.md R220 to R225): each command's lanes, and the branchless
word-level forms, which are followed lane by lane: the bitwise operations and the masked shifts keep to the lanes, and
an addition or a subtraction does where no lane wraps. Settles O53 to O57. -/

namespace Sys2Proof.Machine

/-! ## The commands behind the prologue (R241) -/

theorem exec_pkGt_ready {s : State} (he : s.err = 0#8) :
    exec .pkGt s = .next (s.setPkY (lanes2 gtLane s.x.pkA s.x.pkB)) :=
  next_whenReady pkGt he

theorem exec_pkAdd_ready {s : State} (he : s.err = 0#8) :
    exec .pkAdd s = .next (s.setPkY (lanes2 addLane s.x.pkA s.x.pkB)) :=
  next_whenReady pkAdd he

theorem exec_pkAvg_ready {s : State} (he : s.err = 0#8) :
    exec .pkAvg s = .next (s.setPkY (lanes2 avgLane s.x.pkA s.x.pkB)) :=
  next_whenReady pkAvg he

theorem exec_pkMed_ready {s : State} (he : s.err = 0#8) :
    exec .pkMed s = .next (s.setPkY (lanes3 medLane s.x.pkA s.x.pkB s.x.pkC)) :=
  next_whenReady pkMed he

/-! ## One lane of each command as a number (R221 to R224) -/

theorem toNat_addLane (a b : Byte) : (addLane a b).toNat = (a.toNat + b.toNat) % 256 := BitVec.toNat_ofNat _ _

/-- The average is between the two operands, so that it never wraps (R223). -/
theorem toNat_avgLane (a b : Byte) : (avgLane a b).toNat = (a.toNat + b.toNat + 1) / 2 := by
  rw [avgLane, BitVec.toNat_ofNat]
  omega

/-- The case form of R224, in which the third case does not wrap. -/
theorem toNat_medLane (a b c : Byte) : (medLane a b c).toNat =
    if max a.toNat b.toNat < c.toNat then min a.toNat b.toNat
    else if c.toNat < min a.toNat b.toNat then max a.toNat b.toNat
    else a.toNat + b.toNat - c.toNat := by
  unfold medLane
  split_ifs
  all_goals
    rw [BitVec.toNat_ofNat]
    omega

/-- The gradient `a + b - c` clamped between the smaller and the larger operand (R224). -/
theorem toNat_medLane_clamp (a b c : Byte) : ((medLane a b c).toNat : Int) =
    max (min (a.toNat : Int) b.toNat) (min (max (a.toNat : Int) b.toNat) (a.toNat + b.toNat - c.toNat)) := by
  rw [toNat_medLane]
  split_ifs <;> omega

/-! ## What the commands write, lane by lane -/

/-- Settles O53: the lanes of the result are those of `gtLane`. -/
theorem pkGtLanes : Obligations.PkGtLanes := fun s he =>
  ⟨_, exec_pkGt_ready he, fun k hk => lane_lanes2 gtLane s.x.pkA s.x.pkB k hk⟩

/-- Settles O54: the lanes of the result are those of `addLane`. -/
theorem pkAddLanes : Obligations.PkAddLanes := fun s he =>
  ⟨_, exec_pkAdd_ready he, fun k hk => by rw [lane_lanes2 _ _ _ k hk, toNat_addLane]⟩

/-- Settles O55: the lanes of the result are those of `avgLane`. -/
theorem pkAvgLanes : Obligations.PkAvgLanes := fun s he =>
  ⟨_, exec_pkAvg_ready he, fun k hk => by rw [lane_lanes2 _ _ _ k hk, toNat_avgLane]⟩

/-- Settles O56: the lanes of the result are those of `medLane`, whose case form is the clamped gradient. -/
theorem pkMedLanes : Obligations.PkMedLanes := fun s he =>
  ⟨_, exec_pkMed_ready he, fun k hk => by rw [lane_lanes3 _ _ _ _ k hk, toNat_medLane_clamp]⟩

/-! ## Bitwise operations and masked shifts keep to the lanes (R220) -/

theorem lane_and (a b : Word) (k : Nat) : lane (a &&& b) k = lane a k &&& lane b k := BitVec.extractLsb'_and

theorem lane_or (a b : Word) (k : Nat) : lane (a ||| b) k = lane a k ||| lane b k := BitVec.extractLsb'_or

theorem lane_xor (a b : Word) (k : Nat) : lane (a ^^^ b) k = lane a k ^^^ lane b k := BitVec.extractLsb'_xor

/-- The lanes of a word whose four bytes are the same. -/
theorem lane_pack_same (x : Byte) {k : Nat} (hk : k < 4) : lane (pack x x x x) k = x := by
  obtain ⟨h0, h1, h2, h3⟩ := lane_pack x x x x
  interval_cases k
  exacts [h0, h1, h2, h3]

section
variable (w : Word) {k : Nat} (hk : k < 4)
include hk

theorem lane_not : lane (~~~w) k = ~~~lane w k := by
  refine BitVec.eq_of_getLsbD_eq fun j hj => ?_
  simp [lane, hj, show 8 * k + j < 32 by omega]

theorem toNat_lane_and_7F : (lane (w &&& 0x7F7F7F7F#32) k).toNat = (lane w k).toNat % 128 := by
  rw [lane_and, show 0x7F7F7F7F#32 = pack 0x7F#8 0x7F#8 0x7F#8 0x7F#8 from rfl, lane_pack_same _ hk, BitVec.toNat_and]
  exact Nat.and_two_pow_sub_one_eq_mod _ 7

theorem toNat_lane_and_01 : (lane (w &&& 0x01010101#32) k).toNat = (lane w k).toNat % 2 := by
  rw [lane_and, show 0x01010101#32 = pack 0x01#8 0x01#8 0x01#8 0x01#8 from rfl, lane_pack_same _ hk, BitVec.toNat_and]
  exact Nat.and_two_pow_sub_one_eq_mod _ 1

/-- A shift right by one with the bits that cross into a lane masked off halves each lane. -/
theorem toNat_lane_half : (lane ((w >>> 1) &&& 0x7F7F7F7F#32) k).toNat = (lane w k).toNat / 2 := by
  rw [toNat_lane_and_7F _ hk]
  simp only [lane, BitVec.extractLsb'_toNat, BitVec.toNat_ushiftRight, Nat.shiftRight_eq_div_pow]
  interval_cases k <;> omega

/-- The top bit of each lane, brought down to the lane's bit 0. -/
theorem toNat_lane_topBit : (lane ((w &&& 0x80808080#32) >>> 7) k).toNat = (lane w k).toNat / 128 := by
  rw [BitVec.ushiftRight_and_distrib, show 0x80808080#32 >>> 7 = 0x01010101#32 from rfl, toNat_lane_and_01 _ hk]
  simp only [lane, BitVec.extractLsb'_toNat, BitVec.toNat_ushiftRight, Nat.shiftRight_eq_div_pow]
  interval_cases k <;> omega

end

/-! ## Words as sums of lanes -/

/-- The number with the digits `n 0` to `n 3` in base 256. -/
def laneSum (n : Nat → Nat) : Nat := n 0 + 256 * n 1 + 65536 * n 2 + 16777216 * n 3

theorem toNat_eq_laneSum (w : Word) : w.toNat = laneSum fun k => (lane w k).toNat := by
  simp only [laneSum, lane, BitVec.extractLsb'_toNat, Nat.shiftRight_eq_div_pow]
  omega

/-- The lanes of a word are its digits in base 256. -/
theorem toNat_lane_of_laneSum {w : Word} {n : Nat → Nat} (hw : w.toNat = laneSum n) (hn : ∀ k < 4, n k < 256)
    {k : Nat} (hk : k < 4) : (lane w k).toNat = n k := by
  have h0 := hn 0 (by omega)
  have h1 := hn 1 (by omega)
  have h2 := hn 2 (by omega)
  have h3 := hn 3 (by omega)
  rw [laneSum] at hw
  simp only [lane, BitVec.extractLsb'_toNat, Nat.shiftRight_eq_div_pow]
  interval_cases k <;> omega

/-- Digits in base 256 make a number of 32 bits. -/
theorem laneSum_lt {n : Nat → Nat} (hn : ∀ k < 4, n k < 256) : laneSum n < 2 ^ 32 := by
  have h0 := hn 0 (by omega)
  have h1 := hn 1 (by omega)
  have h2 := hn 2 (by omega)
  have h3 := hn 3 (by omega)
  rw [laneSum]
  omega

/-- Words with the same lanes are the same. -/
theorem word_eq_of_lane_eq {v w : Word} (h : ∀ k < 4, lane v k = lane w k) : v = w := by
  rw [← pack_lanes v, ← pack_lanes w, h 0 (by omega), h 1 (by omega), h 2 (by omega), h 3 (by omega)]

/-- An addition in which no lane wraps adds lane by lane. -/
theorem toNat_lane_add {a b : Word} (h : ∀ k < 4, (lane a k).toNat + (lane b k).toNat < 256) {k : Nat} (hk : k < 4) :
    (lane (a + b) k).toNat = (lane a k).toNat + (lane b k).toNat := by
  have hsum : a.toNat + b.toNat = laneSum fun k => (lane a k).toNat + (lane b k).toNat := by
    rw [toNat_eq_laneSum a, toNat_eq_laneSum b]
    simp only [laneSum]
    omega
  refine toNat_lane_of_laneSum ?_ h hk
  rw [BitVec.toNat_add, hsum, Nat.mod_eq_of_lt (laneSum_lt h)]

/-- A subtraction in which no lane borrows subtracts lane by lane. -/
theorem toNat_lane_sub {a b : Word} (h : ∀ k < 4, (lane b k).toNat ≤ (lane a k).toNat) {k : Nat} (hk : k < 4) :
    (lane (a - b) k).toNat = (lane a k).toNat - (lane b k).toNat := by
  have hlt (j : Nat) (hj : j < 4) : (lane a j).toNat - (lane b j).toNat < 256 := by
    have := (lane a j).isLt
    omega
  have h0 := h 0 (by omega)
  have h1 := h 1 (by omega)
  have h2 := h 2 (by omega)
  have h3 := h 3 (by omega)
  have hsum : a.toNat = b.toNat + laneSum fun k => (lane a k).toNat - (lane b k).toNat := by
    rw [toNat_eq_laneSum a, toNat_eq_laneSum b]
    simp only [laneSum]
    omega
  refine toNat_lane_of_laneSum ?_ hlt hk
  rw [BitVec.toNat_sub_of_le (by rw [BitVec.le_def]; omega), hsum, Nat.add_sub_cancel_left]

/-! ## The carry of each lane, without a carry between lanes -/

/-- The carries of a sum stand at the common bits, the rest of it is the exclusive or. -/
theorem add_eq_two_mul_and_add_xor (a b : Nat) : a + b = 2 * (a &&& b) + (a ^^^ b) := by
  induction a using Nat.strongRecOn generalizing b with
  | ind a ih =>
    by_cases ha : a = 0
    · simp [ha]
    · have hrec := ih (a / 2) (by omega) (b / 2)
      rw [← Nat.and_div_two, ← Nat.xor_div_two] at hrec
      have hand := @Nat.and_mod_two_eq_one a b
      have hxor := @Nat.xor_mod_two_eq a b
      omega

/-- Half of `a + b` in each lane, rounded down, as GT and AVG of R225 compute it. -/
def halfSum (a b : Word) : Word := (a &&& b) + (((a ^^^ b) >>> 1) &&& 0x7F7F7F7F#32)

theorem toNat_lane_halfSum (a b : Word) {k : Nat} (hk : k < 4) :
    (lane (halfSum a b) k).toNat = ((lane a k).toNat + (lane b k).toNat) / 2 := by
  have hhalf (j : Nat) (hj : j < 4) : (lane (a &&& b) j).toNat + (lane (((a ^^^ b) >>> 1) &&& 0x7F7F7F7F#32) j).toNat =
      ((lane a j).toNat + (lane b j).toNat) / 2 := by
    rw [toNat_lane_half _ hj, lane_and, lane_xor, BitVec.toNat_and, BitVec.toNat_xor,
      add_eq_two_mul_and_add_xor (lane a j).toNat]
    omega
  rw [halfSum, toNat_lane_add (fun j hj => ?_) hk, hhalf k hk]
  rw [hhalf j hj]
  omega

/-- The carry of `a + b` out of each lane, at the lane's bit 0 (R225). -/
def laneCarry (a b : Word) : Word := (halfSum a b &&& 0x80808080#32) >>> 7

theorem toNat_lane_laneCarry (a b : Word) {k : Nat} (hk : k < 4) :
    (lane (laneCarry a b) k).toNat = ((lane a k).toNat + (lane b k).toNat) / 256 := by
  rw [laneCarry, toNat_lane_topBit _ hk, toNat_lane_halfSum a b hk]
  omega

/-! ## GT (R225) -/

theorem gtWord_eq (a b : Word) : gtWord a b = (laneCarry a (~~~b) + 0x7F7F7F7F#32) ^^^ 0x7F7F7F7F#32 := rfl

/-- `a + ~b` carries out of a lane exactly where `a` is greater than `b`. -/
theorem toNat_lane_laneCarry_not (a b : Word) {k : Nat} (hk : k < 4) :
    (lane (laneCarry a (~~~b)) k).toNat = if (lane b k).toNat < (lane a k).toNat then 1 else 0 := by
  rw [toNat_lane_laneCarry _ _ hk, lane_not _ hk, BitVec.toNat_not]
  split <;> omega

theorem lane_gtWord (a b : Word) {k : Nat} (hk : k < 4) : lane (gtWord a b) k = gtLane (lane a k) (lane b k) := by
  have hmask (j : Nat) (hj : j < 4) : lane 0x7F7F7F7F#32 j = 0x7F#8 := lane_pack_same 0x7F#8 hj
  have hsum : (lane (laneCarry a (~~~b) + 0x7F7F7F7F#32) k).toNat =
      (if (lane b k).toNat < (lane a k).toNat then 1 else 0) + 0x7F := by
    rw [toNat_lane_add (fun j hj => ?_) hk, toNat_lane_laneCarry_not _ _ hk, hmask k hk]
    · rfl
    · rw [toNat_lane_laneCarry_not _ _ hj, hmask j hj]
      split <;> decide
  rw [gtWord_eq, lane_xor, hmask k hk, gtLane]
  split_ifs at hsum ⊢ with hgt
  · rw [BitVec.eq_of_toNat_eq (y := 0x80#8) hsum]
    rfl
  · rw [BitVec.eq_of_toNat_eq (y := 0x7F#8) hsum]
    rfl

/-! ## ADD and AVG (R225) -/

/-- Clearing each lane's bit 0 is halving and doubling the lanes. -/
theorem and_FEFEFEFE_eq (x : Word) : x &&& 0xFEFEFEFE#32 = ((x >>> 1) &&& 0x7F7F7F7F#32) <<< 1 := by
  refine BitVec.eq_of_getLsbD_eq fun j hj => ?_
  interval_cases j <;> simp

/-- The bits that leave lanes 0 to 2 in a doubling are these lanes' top bits. -/
theorem shiftLeft_one_and_01010100_eq (x : Word) :
    (x <<< 1) &&& 0x01010100#32 = ((x &&& 0x80808080#32) >>> 7) <<< 8 := by
  refine BitVec.eq_of_getLsbD_eq fun j hj => ?_
  interval_cases j <;> simp

/-- ADD takes back the carries out of lanes 0 to 2, each at the bit it leaks into. -/
theorem addWord_eq (a b : Word) : addWord a b = a + b - laneCarry a b <<< 8 := by
  rw [addWord, and_FEFEFEFE_eq, ← BitVec.shiftLeft_add_distrib, shiftLeft_one_and_01010100_eq]
  rfl

/-- The sum of two words is the sum of each lane modulo 256, with the carries added in the next lane. -/
theorem toNat_add_toNat_eq (a b : Word) : a.toNat + b.toNat =
    (laneSum fun k => ((lane a k).toNat + (lane b k).toNat) % 256) + (laneCarry a b).toNat * 2 ^ 8 := by
  have hdigit (k : Nat) (hk : k < 4) : (lane a k).toNat + (lane b k).toNat =
      ((lane a k).toNat + (lane b k).toNat) % 256 + 256 * (lane (laneCarry a b) k).toNat := by
    rw [toNat_lane_laneCarry a b hk, Nat.mod_add_div]
  have h0 := hdigit 0 (by omega)
  have h1 := hdigit 1 (by omega)
  have h2 := hdigit 2 (by omega)
  have h3 := hdigit 3 (by omega)
  rw [toNat_eq_laneSum a, toNat_eq_laneSum b, toNat_eq_laneSum (laneCarry a b)]
  simp only [laneSum]
  linarith

theorem toNat_lane_addWord (a b : Word) {k : Nat} (hk : k < 4) :
    (lane (addWord a b) k).toNat = ((lane a k).toNat + (lane b k).toNat) % 256 := by
  have hlt : ∀ j < 4, ((lane a j).toNat + (lane b j).toNat) % 256 < 256 := fun j _ => Nat.mod_lt _ (by omega)
  have hsum : a + b = BitVec.ofNat 32 (laneSum fun k => ((lane a k).toNat + (lane b k).toNat) % 256) +
      laneCarry a b <<< 8 := by
    refine BitVec.eq_of_toNat_eq ?_
    rw [BitVec.toNat_add, toNat_add_toNat_eq, BitVec.toNat_add, BitVec.toNat_ofNat, BitVec.toNat_shiftLeft,
      Nat.shiftLeft_eq, ← Nat.add_mod]
  refine toNat_lane_of_laneSum ?_ hlt hk
  rw [addWord_eq, hsum, BitVec.add_sub_cancel, BitVec.toNat_ofNat, Nat.mod_eq_of_lt (laneSum_lt hlt)]

theorem avgWord_eq (a b : Word) : avgWord a b = halfSum a b + ((a ^^^ b) &&& 0x01010101#32) := by
  rw [avgWord, halfSum, BitVec.ushiftRight_and_distrib]
  rfl

theorem toNat_lane_avgWord (a b : Word) {k : Nat} (hk : k < 4) :
    (lane (avgWord a b) k).toNat = ((lane a k).toNat + (lane b k).toNat + 1) / 2 := by
  have havg (j : Nat) (hj : j < 4) : (lane (halfSum a b) j).toNat + (lane ((a ^^^ b) &&& 0x01010101#32) j).toNat =
      ((lane a j).toNat + (lane b j).toNat + 1) / 2 := by
    rw [toNat_lane_halfSum a b hj, toNat_lane_and_01 _ hj, lane_xor, BitVec.toNat_xor, Nat.xor_mod_two_eq]
    omega
  rw [avgWord_eq, toNat_lane_add (fun j hj => ?_) hk, havg k hk]
  rw [havg j hj]
  omega

/-! ## MED (R225) -/

theorem gtLane_of_lt {a b : Byte} (h : b.toNat < a.toNat) : gtLane a b = BitVec.allOnes 8 := if_pos h

theorem gtLane_of_le {a b : Byte} (h : a.toNat ≤ b.toNat) : gtLane a b = 0#8 := if_neg (by omega)

/-- The mask of the lanes in which `c` is between `lo` and `hi` (`m` of R225). -/
def insideMask (lo hi c : Word) : Word := ~~~(gtWord c hi ||| gtWord lo c)

theorem medWordFrom_eq (lo hi c : Word) : medWordFrom lo hi c = (gtWord c hi &&& lo) ||| (gtWord lo c &&& hi) |||
    ((hi &&& insideMask lo hi c) - (c &&& insideMask lo hi c) + (lo &&& insideMask lo hi c)) := rfl

/-- The mask keeps a lane in which `c` is inside the bounds and clears it outside. -/
theorem lane_and_insideMask (x lo hi c : Word) {k : Nat} (hk : k < 4) : lane (x &&& insideMask lo hi c) k =
    if (lane hi k).toNat < (lane c k).toNat ∨ (lane c k).toNat < (lane lo k).toNat then 0#8 else lane x k := by
  rw [insideMask, lane_and, lane_not _ hk, lane_or, lane_gtWord _ _ hk, lane_gtWord _ _ hk]
  by_cases hhi : (lane hi k).toNat < (lane c k).toNat
  · rw [gtLane_of_lt hhi, if_pos (.inl hhi), BitVec.allOnes_or, BitVec.not_allOnes, BitVec.and_zero]
  · by_cases hlo : (lane c k).toNat < (lane lo k).toNat
    · rw [gtLane_of_lt hlo, if_pos (.inr hlo), BitVec.or_allOnes, BitVec.not_allOnes, BitVec.and_zero]
    · rw [gtLane_of_le (by omega), gtLane_of_le (by omega), if_neg (by omega), BitVec.or_zero, BitVec.not_zero,
        BitVec.and_allOnes]

/-- The masked gradient stays inside each lane, by the bound of R224. -/
theorem toNat_lane_gradient {lo hi c : Word} {k : Nat} (hk : k < 4) :
    (lane ((hi &&& insideMask lo hi c) - (c &&& insideMask lo hi c) + (lo &&& insideMask lo hi c)) k).toNat =
      if (lane hi k).toNat < (lane c k).toNat ∨ (lane c k).toNat < (lane lo k).toNat then 0
      else (lane hi k).toNat - (lane c k).toNat + (lane lo k).toNat := by
  have hborrow (j : Nat) (hj : j < 4) :
      (lane (c &&& insideMask lo hi c) j).toNat ≤ (lane (hi &&& insideMask lo hi c) j).toNat := by
    rw [lane_and_insideMask _ _ _ _ hj, lane_and_insideMask _ _ _ _ hj]
    split_ifs <;> omega
  have hcarry (j : Nat) (hj : j < 4) : (lane ((hi &&& insideMask lo hi c) - (c &&& insideMask lo hi c)) j).toNat +
      (lane (lo &&& insideMask lo hi c) j).toNat < 256 := by
    have hlt := (lane hi j).isLt
    rw [toNat_lane_sub hborrow hj, lane_and_insideMask _ _ _ _ hj, lane_and_insideMask _ _ _ _ hj,
      lane_and_insideMask _ _ _ _ hj]
    split_ifs
    · decide
    · omega
  rw [toNat_lane_add hcarry hk, toNat_lane_sub hborrow hk, lane_and_insideMask _ _ _ _ hk,
    lane_and_insideMask _ _ _ _ hk, lane_and_insideMask _ _ _ _ hk]
  split_ifs <;> rfl

/-- MED's last line chooses among the bounds and the gradient in each lane. -/
theorem toNat_lane_medWordFrom {lo hi c : Word} {k : Nat} (hk : k < 4) (hle : (lane lo k).toNat ≤ (lane hi k).toNat) :
    (lane (medWordFrom lo hi c) k).toNat =
      if (lane hi k).toNat < (lane c k).toNat then (lane lo k).toNat
      else if (lane c k).toNat < (lane lo k).toNat then (lane hi k).toNat
      else (lane hi k).toNat - (lane c k).toNat + (lane lo k).toNat := by
  have hgradient := toNat_lane_gradient (lo := lo) (hi := hi) (c := c) hk
  rw [medWordFrom_eq, lane_or, lane_or, lane_and, lane_and, lane_gtWord _ _ hk, lane_gtWord _ _ hk, BitVec.toNat_or,
    hgradient]
  by_cases hhi : (lane hi k).toNat < (lane c k).toNat
  · rw [gtLane_of_lt hhi, gtLane_of_le (by omega), if_pos (.inl hhi), if_pos hhi, BitVec.allOnes_and,
      BitVec.zero_and, BitVec.or_zero, Nat.or_zero]
  · by_cases hlo : (lane c k).toNat < (lane lo k).toNat
    · rw [gtLane_of_lt hlo, gtLane_of_le (by omega), if_pos (.inr hlo), if_neg hhi, if_pos hlo, BitVec.zero_and,
        BitVec.allOnes_and, BitVec.zero_or, Nat.or_zero]
    · rw [gtLane_of_le (by omega), gtLane_of_le (by omega), if_neg (by omega), if_neg hhi, if_neg hlo, BitVec.zero_and,
        BitVec.zero_and, BitVec.or_zero, BitVec.toNat_zero, Nat.zero_or]

/-- Where `a` is greater than `b` the mask exchanges the two, elsewhere it leaves them (`lo` and `hi` of R225). -/
theorem lane_xor_select (a b w : Word) {k : Nat} (hk : k < 4) : lane (((a ^^^ b) &&& gtWord a b) ^^^ w) k =
    if (lane b k).toNat < (lane a k).toNat then lane a k ^^^ lane b k ^^^ lane w k else lane w k := by
  rw [lane_xor, lane_and, lane_xor, lane_gtWord _ _ hk]
  split
  · next hlt => rw [gtLane_of_lt hlt, BitVec.and_allOnes]
  · next hge => rw [gtLane_of_le (by omega), BitVec.and_zero, BitVec.zero_xor]

theorem toNat_lane_min (a b : Word) {k : Nat} (hk : k < 4) : (lane (((a ^^^ b) &&& gtWord a b) ^^^ a) k).toNat =
    min (lane a k).toNat (lane b k).toNat := by
  rw [lane_xor_select a b a hk, BitVec.xor_comm (lane a k), BitVec.xor_assoc, BitVec.xor_self, BitVec.xor_zero]
  split <;> omega

theorem toNat_lane_max (a b : Word) {k : Nat} (hk : k < 4) : (lane (((a ^^^ b) &&& gtWord a b) ^^^ b) k).toNat =
    max (lane a k).toNat (lane b k).toNat := by
  rw [lane_xor_select a b b hk, BitVec.xor_assoc, BitVec.xor_self, BitVec.xor_zero]
  split <;> omega

theorem toNat_lane_medWord (a b c : Word) {k : Nat} (hk : k < 4) :
    (lane (medWord a b c) k).toNat = (medLane (lane a k) (lane b k) (lane c k)).toNat := by
  have hmin := toNat_lane_min a b hk
  have hmax := toNat_lane_max a b hk
  rw [medWord, toNat_lane_medWordFrom hk (by omega), hmin, hmax, toNat_medLane]
  split_ifs <;> omega

/-! ## The word-level forms are the commands' results -/

theorem lanes2_gtLane (a b : Word) : lanes2 gtLane a b = gtWord a b :=
  word_eq_of_lane_eq fun k hk => by rw [lane_lanes2 _ _ _ k hk, lane_gtWord _ _ hk]

theorem lanes2_addLane (a b : Word) : lanes2 addLane a b = addWord a b :=
  word_eq_of_lane_eq fun k hk => BitVec.eq_of_toNat_eq (by
    rw [lane_lanes2 _ _ _ k hk, toNat_addLane, toNat_lane_addWord _ _ hk])

theorem lanes2_avgLane (a b : Word) : lanes2 avgLane a b = avgWord a b :=
  word_eq_of_lane_eq fun k hk => BitVec.eq_of_toNat_eq (by
    rw [lane_lanes2 _ _ _ k hk, toNat_avgLane, toNat_lane_avgWord _ _ hk])

theorem lanes3_medLane (a b c : Word) : lanes3 medLane a b c = medWord a b c :=
  word_eq_of_lane_eq fun k hk => BitVec.eq_of_toNat_eq (by
    rw [lane_lanes3 _ _ _ _ k hk, toNat_lane_medWord _ _ _ hk])

/-- Settles O57: each word-level form has the lanes of its command's result. -/
theorem branchlessForms : Obligations.BranchlessForms := fun s he =>
  ⟨lanes2_gtLane s.x.pkA s.x.pkB ▸ exec_pkGt_ready he, lanes2_addLane s.x.pkA s.x.pkB ▸ exec_pkAdd_ready he,
    lanes2_avgLane s.x.pkA s.x.pkB ▸ exec_pkAvg_ready he,
    lanes3_medLane s.x.pkA s.x.pkB s.x.pkC ▸ exec_pkMed_ready he⟩

end Sys2Proof.Machine
end

section
/-! PROOFS. The gate on `ERR` (spec/45_system.md R241, R242): a write to `CMD` while `ERR` is not 0 is taken off the
pending events and does nothing else. Settles O11. -/

namespace Sys2Proof.Machine

theorem illegalCommand_faulted (w : Word) {s : State} (he : s.err ≠ 0#8) : illegalCommand w s = s :=
  whenReady_faulted (raise .illegalCmd w.toNat) s he

/-- While `ERR` is not 0 a word other than that of `SYS.RESET` has no effect, be it a command or not. -/
theorem step_writeCmd_faulted {s : State} {w : Word} {rest : List Event} (herr : s.err ≠ 0#8) (hp : s.phase = .idle)
    (he : s.events = .writeCmd w :: rest) (hw : w ≠ 0x00000001#32) : step s = .next (s.setEvents rest) := by
  have herr' : (s.setEvents rest).err ≠ 0#8 := herr
  by_cases hcommand : ∃ i, (w.toNat, i) ∈ opcodeTable
  · obtain ⟨i, hi⟩ := hcommand
    have hd : decodeCommand w = .ok i := (decodeCommand_eq_ok_iff w i).mpr hi
    have hreset : i ≠ .sysReset := by
      rintro rfl
      exact hw (word_of_sysReset hd)
    rw [step_of_command hp he hd, exec_faulted herr' hreset]
  · rw [step_of_no_command hp he (not_exists.mp hcommand), illegalCommand_faulted w herr']

/-- Settles O11: the write by whether its word is a command, the instructions by their common gate. -/
theorem refusedWhileFaulted : Obligations.RefusedWhileFaulted :=
  ⟨fun _ _ _ => step_writeCmd_faulted, fun _ _ => exec_faulted⟩

end Sys2Proof.Machine
end

section
/-! PROOFS. Exceptions (spec/60_exceptions.md R251, R254): which instruction can raise which fault, and the operand
checks in their order. Settles O14, O51. -/

namespace Sys2Proof.Machine

/-! ## Which instructions can raise which fault (R251) -/

/-- The column "raised by" of R251, over the instructions: a command's stream items and codes raise its data faults
(assumption log 5), and `ILLEGAL_CMD` is for words that are no instruction. -/
def Cause.RaisedBy : Cause → Instr → Prop
  | .illegalCmd, _ => False
  | .badOperand, i => i ∈ [Instr.lzComp, .lzCblk, .lzDecomp, .grDec]
  | .outOverflow, i => i = .lzDecomp ∨ (∃ c, i = .lit c) ∨ (∃ p lc, i = .lzMatch p lc) ∨ ∃ p e, i = .lzMatchx p e
  | .lzTruncated, i => i = .lzDecomp ∨ ∃ f, i = .ctrl f
  | .noSnapshot, i => i = .lzRestore
  | .grIndexRange, i => i = .grDec
  | .grTableRange, i => i = .grDec ∨ (∃ q r, i = .golomb q r) ∨ ∃ q r, i = .golombx q r
  | .grOverrun, i => i = .grDec ∨ ∃ z k, i = .gamma z k

/-- `ERR` is 0, or the code of a fault that the instruction can raise. -/
def State.FaultOnlyBy (t : State) (i : Instr) : Prop := t.err = 0#8 ∨ ∃ c : Cause, c.RaisedBy i ∧ t.err = c.code

section
variable {s t : State} {i : Instr}

theorem State.HoldsFault.onlyBy {c : Cause} {info : Nat} (h : t.HoldsFault c info) (hc : c.RaisedBy i) :
    t.FaultOnlyBy i := .inr ⟨c, hc, h.1⟩

theorem State.SameFault.onlyBy (h : s.SameFault t) (he : s.err = 0#8) : t.FaultOnlyBy i := .inl (h.err.trans he)

theorem whenReady_faultOnlyBy {f : State → State} (he : s.err = 0#8) (h : (f s).FaultOnlyBy i) :
    (whenReady f s).FaultOnlyBy i := (whenReady_ready f s he).symm ▸ h

theorem checked_faultOnlyBy {checks : State → List (Bool × Nat)} {f : State → State} (he : s.err = 0#8)
    (hi : Cause.badOperand.RaisedBy i) (h : (f s).FaultOnlyBy i) : (whenReady (checked checks f) s).FaultOnlyBy i :=
  whenReady_faultOnlyBy he (checked_cases (·.FaultOnlyBy i) checks f s (fun k _ => (raise_holds _ k s).onlyBy hi)
    fun _ => h)

theorem lzRestore_faultOnlyBy (he : s.err = 0#8) : (lzRestore s).FaultOnlyBy .lzRestore := by
  unfold lzRestore
  split
  · exact (s.setLzc_sameFault s.snap).onlyBy he
  · exact (raise_holds _ _ s).onlyBy rfl

/-! ### `LZ.DECOMP` and its items -/

theorem LzFault.raisedBy {c : Cause} {info : Nat} (h : LzFault s c info) : c.RaisedBy .lzDecomp := by
  cases h <;> exact .inl rfl

theorem lzMicro_faultOnlyBy (hs : s.FaultOnlyBy .lzDecomp) : (lzMicro s).FaultOnlyBy .lzDecomp := by
  have hmove := lzMicro_move s
  generalize lzMicro s = t at hmove
  cases hmove with
  | finishes => exact hs
  | aborts h => exact (lzAbort_holds _ _ s).onlyBy h.raisedBy
  | goesOn d m hip hlen hop => exact hs

theorem lzDecomp_faultOnlyBy (he : s.err = 0#8) : (lzDecomp s).FaultOnlyBy .lzDecomp :=
  lzDecomp_keeps (P := (·.FaultOnlyBy .lzDecomp)) (fun _ => lzMicro_faultOnlyBy) (.inl he)

/-- A token with output faults only where its output does not fit (R172). -/
theorem matchItem_faultOnlyBy (bytes len : Nat) (p : Pos) (he : s.err = 0#8) (hi : Cause.outOverflow.RaisedBy i) :
    (matchItem bytes len p s).FaultOnlyBy i := by
  by_cases hfits : s.lz.op + len ≤ s.cfg.obufCap
  · rw [matchItem_eq_produced p hfits]
    exact .inl he
  · rw [matchItem_overflow bytes p (by omega)]
    exact (lzAbort_holds _ _ s).onlyBy hi

theorem runToken_faultOnlyBy (k : LzToken) (he : s.err = 0#8) : (runToken k s).FaultOnlyBy k.instr := by
  cases k with
  | ctrl f =>
    simp only [runToken, ctrlItem]
    split
    · exact (lzAbort_holds _ _ s).onlyBy (.inr ⟨f, rfl⟩)
    · exact .inl he
  | lit c =>
    by_cases hfits : s.lz.op + 1 ≤ s.cfg.obufCap
    · rw [runToken_eq_produced (t := .lit c) rfl hfits]
      exact .inl he
    · rw [runToken, litItem_overflow c (by omega)]
      exact (lzAbort_holds _ _ s).onlyBy (.inr (.inl ⟨c, rfl⟩))
  | short p lc => exact matchItem_faultOnlyBy _ _ p he (.inr (.inr (.inl ⟨p, lc, rfl⟩)))
  | long p e => exact matchItem_faultOnlyBy _ _ p he (.inr (.inr (.inr ⟨p, e, rfl⟩)))

/-! ### `GR.DEC` and its codes -/

theorem GrFault.raisedBy {c : Cause} {info : Nat} (h : GrFault s c info) : c.RaisedBy .grDec := by
  cases h with
  | indexRange => exact rfl
  | tableRange => exact .inl rfl
  | overrun => exact .inl rfl

theorem grMicro_faultOnlyBy (hs : s.FaultOnlyBy .grDec) : (grMicro s).FaultOnlyBy .grDec := by
  have hmove := grMicro_move s
  generalize grMicro s = t at hmove
  cases hmove with
  | finishes => exact hs
  | aborts h => exact (grAbort_holds _ _ s).onlyBy h.raisedBy
  | goesOn m h => exact hs

theorem grDec_faultOnlyBy (he : s.err = 0#8) : (grDec s).FaultOnlyBy .grDec :=
  grDec_keeps (P := (·.FaultOnlyBy .grDec)) (fun _ => grMicro_faultOnlyBy) (.inl he)
    ((grAbort_holds _ _ s).onlyBy rfl) fun _ => .inl he

theorem takeResidual_err (v : Nat) (c : BitCursor) (s : State) : (takeResidual v c s).err = s.err := by
  obtain ⟨m, g, h, -⟩ := takeResidual_cases v c s
  rw [h, State.err_setGr, State.err_setPix]

theorem runCode_faultOnlyBy (c : GrCode) (he : s.err = 0#8) : (runCode c s).FaultOnlyBy c.instr := by
  cases c with
  | gamma z k =>
    simp only [runCode, gammaCode]
    split
    · exact (grAbort_holds _ _ s).onlyBy (.inr ⟨z, k, rfl⟩)
    · split
      · obtain ⟨m, hm⟩ := putZeros_frame (2 ^ z + k) s.gr.i s
        rw [hm]
        exact .inl he
      · exact .inl he
  | golomb q r =>
    simp only [runCode, golombCode]
    split
    · exact (grAbort_holds _ _ s).onlyBy (.inr (.inl ⟨q, r, rfl⟩))
    · exact .inl ((takeResidual_err _ _ s).trans he)
  | golombx q r =>
    simp only [runCode, golombxCode]
    split
    · exact (grAbort_holds _ _ s).onlyBy (.inr (.inr ⟨q, r, rfl⟩))
    · exact .inl ((takeResidual_err _ _ s).trans he)

/-! ### Every instruction -/

/-- No instruction leaves a fault but its own: each arm by what its command, item or code can leave. -/
theorem exec_faultOnlyBy (he : s.err = 0#8) (h : exec i s = .next t) : t.FaultOnlyBy i := by
  cases i <;> cases h
  case sysReset => exact .inl rfl
  case lzComp => exact checked_faultOnlyBy he (by simp [Cause.RaisedBy]) ((lzComp_sameFault s).onlyBy he)
  case lzCblk => exact checked_faultOnlyBy he (by simp [Cause.RaisedBy]) ((lzCblk_sameFault s).onlyBy he)
  case lzDecomp => exact checked_faultOnlyBy he (by simp [Cause.RaisedBy]) (lzDecomp_faultOnlyBy he)
  case grDec => exact checked_faultOnlyBy he (by simp [Cause.RaisedBy]) (grDec_faultOnlyBy he)
  case lzRestore => exact whenReady_faultOnlyBy he (lzRestore_faultOnlyBy he)
  case ctrl f => exact whenReady_faultOnlyBy he (runToken_faultOnlyBy (.ctrl f) he)
  case lit c => exact whenReady_faultOnlyBy he (runToken_faultOnlyBy (.lit c) he)
  case lzMatch p lc => exact whenReady_faultOnlyBy he (runToken_faultOnlyBy (.short p lc) he)
  case lzMatchx p e => exact whenReady_faultOnlyBy he (runToken_faultOnlyBy (.long p e) he)
  case gamma z k => exact whenReady_faultOnlyBy he (runCode_faultOnlyBy (.gamma z k) he)
  case golomb q r => exact whenReady_faultOnlyBy he (runCode_faultOnlyBy (.golomb q r) he)
  case golombx q r => exact whenReady_faultOnlyBy he (runCode_faultOnlyBy (.golombx q r) he)
  case lzCreset | lzStore | lzDreset | lzPrime | pkGt | pkAdd | pkAvg | pkMed =>
    exact whenReady_faultOnlyBy he (.inl he)

end

/-- Settles O14: a fault that an instruction leaves, by its cause's row in the table. -/
theorem faultsRaisedOnlyBy : Obligations.FaultsRaisedOnlyBy := by
  intro i s t he h
  obtain hnone | ⟨c, hc, herr⟩ := exec_faultOnlyBy he h
  · exact .inl hnone
  refine .inr ?_
  cases c with
  | illegalCmd => exact hc.elim
  | badOperand => exact .inl ⟨herr, hc⟩
  | outOverflow => exact .inr (.inl ⟨herr, hc⟩)
  | lzTruncated => exact .inr (.inr (.inl ⟨herr, hc⟩))
  | noSnapshot => exact .inr (.inr (.inr (.inl ⟨herr, hc⟩)))
  | grIndexRange => exact .inr (.inr (.inr (.inr (.inl ⟨herr, hc⟩))))
  | grTableRange => exact .inr (.inr (.inr (.inr (.inr (.inl ⟨herr, hc⟩)))))
  | grOverrun => exact .inr (.inr (.inr (.inr (.inr (.inr ⟨herr, hc⟩)))))

/-! ## The operand checks in their order (R254) -/

/-- The answer of checks that are conditions: that of the first if it fails, else that of the rest. -/
theorem firstFailing_cons (p : Prop) [Decidable p] (k : Nat) (rest : List (Bool × Nat)) :
    firstFailing ((decide p, k) :: rest) = if p then some k else firstFailing rest := by
  by_cases h : p <;> simp [firstFailing, h]

theorem firstFailing_decompChecks (s : State) :
    firstFailing (decompChecks s) = if s.cfg.ibufCap < s.inLen then some 0 else none :=
  firstFailing_cons _ 0 []

theorem firstFailing_compChecks (s : State) : firstFailing (compChecks s) =
    if s.cfg.ibufCap < s.inLen then some 0
    else if s.cfg.obufCap < s.inLen + (s.inLen + 7) / 8 then some 1 else none := by
  simp only [compChecks, inputTooLong, outputTooSmall, firstFailing_cons, gt_iff_lt]
  rfl

theorem firstFailing_grChecks (s : State) : firstFailing (grChecks s) =
    if 3 < s.x.chan.toNat then some 2
    else if 1 < s.x.first.toNat then some 3
    else if s.x.first.toNat = 1 ∧ s.x.chan.toNat ≠ 0 then some 4
    else if s.cfg.poolCap < s.poolLen then some 5
    else if s.cfg.pixCap < s.pixBase + s.pixCount then some 6 else none := by
  simp only [grChecks, ← Bool.decide_and, firstFailing_cons, gt_iff_lt]
  rfl

section
variable {s : State} {k : Nat}

/-- A checked command without a fault before it, and its first failing check. -/
theorem whenReady_checked_fail {checks : State → List (Bool × Nat)} (f : State → State) (he : s.err = 0#8)
    (h : firstFailing (checks s) = some k) :
    whenReady (checked checks f) s = (s.setErr 2#8).setErrInfo (BitVec.ofNat 32 k) := by
  rw [whenReady_ready _ s he, checked_fail _ f s k h]
  rfl

theorem exec_of_failing_compChecks {i : Instr} (hi : i = .lzComp ∨ i = .lzCblk) (he : s.err = 0#8)
    (h : firstFailing (compChecks s) = some k) :
    exec i s = .next ((s.setErr 2#8).setErrInfo (BitVec.ofNat 32 k)) := by
  rcases hi with rfl | rfl
  · exact congrArg Host.Outcome.next (whenReady_checked_fail lzComp he h)
  · exact congrArg Host.Outcome.next (whenReady_checked_fail lzCblk he h)

theorem exec_lzDecomp_of_failing_check (he : s.err = 0#8) (h : firstFailing (decompChecks s) = some k) :
    exec .lzDecomp s = .next ((s.setErr 2#8).setErrInfo (BitVec.ofNat 32 k)) :=
  congrArg Host.Outcome.next (whenReady_checked_fail lzDecomp he h)

theorem exec_grDec_of_failing_check (he : s.err = 0#8) (h : firstFailing (grChecks s) = some k) :
    exec .grDec s = .next ((s.setErr 2#8).setErrInfo (BitVec.ofNat 32 k)) :=
  congrArg Host.Outcome.next (whenReady_checked_fail grDec he h)

end

/-- Settles O51: a check fails first where its condition holds and those of the checks before it do not. -/
theorem operandChecksInOrder : Obligations.OperandChecksInOrder := by
  intro s he
  refine ⟨fun i hi hin => ?_, fun i hi hin hout => ?_, fun hchan => ?_, fun hchan hfirst => ?_,
    fun hchan hfirst hwhole => ?_, fun hchan hfirst hwhole hpool => ?_, fun hchan hfirst hwhole hpool hpix => ?_⟩
  · have hcomp : firstFailing (compChecks s) = some 0 := by rw [firstFailing_compChecks, if_pos hin]
    rcases hi with hi | hi | rfl
    · exact exec_of_failing_compChecks (.inl hi) he hcomp
    · exact exec_of_failing_compChecks (.inr hi) he hcomp
    · exact exec_lzDecomp_of_failing_check he (by rw [firstFailing_decompChecks, if_pos hin])
  · refine exec_of_failing_compChecks hi he ?_
    rw [firstFailing_compChecks, if_neg (by omega), if_pos hout]
  all_goals refine exec_grDec_of_failing_check he ?_
  · rw [firstFailing_grChecks, if_pos hchan]
  · rw [firstFailing_grChecks, if_neg (by omega), if_pos hfirst]
  · rw [firstFailing_grChecks, if_neg (by omega), if_neg (by omega), if_pos ⟨hfirst, hwhole⟩]
  · rw [firstFailing_grChecks, if_neg (by omega), if_neg (by omega), if_neg (by omega), if_pos hpool]
  · rw [firstFailing_grChecks, if_neg (by omega), if_neg (by omega), if_neg (by omega), if_neg (by omega), if_pos hpix]

end Sys2Proof.Machine
end
